-- ==== Sys2Proof/Word.lean ====
section
/-! DEFINITION. The words of the block: widths fixed by 00_scope.md R5 and R6, all unsigned, and the
indexed register file of three, one entry for each word of a frame. -/

namespace Sys2Proof

/-- A byte, the document's `u8` (R6). -/
abbrev Byte := BitVec 8

/-- The value of one word, the document's `u16` (R6, R40). -/
abbrev Value := BitVec 16

/-- A validator command word as it stands on `v_cmd` (R43). -/
abbrev CmdWord := BitVec 10

/-- One entry for each word index 0, 1, 2: the register files `VAL`, `CHK`, `BAD` (R7, R10). -/
structure PerWord (α : Type) where
  w0 : α
  w1 : α
  w2 : α
deriving DecidableEq, Repr

end Sys2Proof
end

