-- ==== Sys2Proof/Syntax.lean ====
section
/-! DEFINITION. The operations of the block, one constructor for each row of spec/opcode_table.json
(30_encoding.md R49), with every operand bit of the row's encoding. -/

namespace Sys2Proof

/-- The frame kind that BEGIN selects and EXP holds (10_state.md R16, 30_encoding.md R41): bit 0 is the
status frame (1 word, 3 bytes), bit 1 the measurement frame (3 words, 9 bytes). -/
inductive FrameKind where
  | status
  | measurement
deriving DecidableEq, Repr

/-- The five operations. The bits the block ignores (R50) are kept as operands `r`, so that no bit of a
command word is lost by decoding; no meaning reads them. -/
inductive Instr where
  /-- IDLE, `00rrrrrrrr` (R80). -/
  | idle (r : Byte)
  /-- BEGIN, `01rrrrrrrs` (R81). -/
  | beginFrame (r : BitVec 7) (sel : FrameKind)
  /-- PUSH, `10bbbbbbbb` (R82). -/
  | push (b : Byte)
  /-- END, `11rrrrrrrr` (R83). -/
  | endFrame (r : Byte)
  /-- GEN, `hhhhhhhhllllllll` on port G (R64). -/
  | gen (hi lo : Byte)
deriving DecidableEq, Repr

/-- The block's two input interfaces (R42): the validator's command port and the generator's input. -/
inductive Port where
  | v
  | g
deriving DecidableEq, Repr

/-- The number of wires of a port (R43, R44). -/
def Port.width : Port → Nat
  | .v => 10
  | .g => 16

/-- What stands on one of the two ports: a 10-bit command word or a 16-bit generator input. -/
inductive PortWord where
  | v (w : CmdWord)
  | g (x : Value)
deriving DecidableEq, Repr

end Sys2Proof
end

