-- ==== Sys2Proof/WellFormed.lean ====
section
/-! DEFINITION. Well-formedness. Each operand has the width of its field, so no term of `Instr` is illegal
(30_encoding.md R51). The one check the spec gives is on the host's side: it should drive the ignored bits
to zero (R50); a word that does so is canonical (R49). That check never changes behaviour (S1 of
93_implementation_defined.md). -/

namespace Sys2Proof

/-- Every operation with operands of its fields' widths is legal (R51): there is no illegal encoding, none
that faults, no hint and no custom space. -/
def Instr.wellFormed : Instr → Bool
  | .idle _ => true
  | .beginFrame _ _ => true
  | .push _ => true
  | .endFrame _ => true
  | .gen _ _ => true

/-- The ignored bits are zero, as a host should drive them (R49, R50). -/
def Instr.canonical : Instr → Bool
  | .idle r => r == 0#8
  | .beginFrame r _ => r == 0#7
  | .push _ => true
  | .endFrame r => r == 0#8
  | .gen _ _ => true

/-- A number fits the wires of a port: the check the decoder makes on a raw number. -/
def Port.fits (p : Port) (n : Nat) : Bool := n < 2 ^ p.width

end Sys2Proof
end

