-- ==== Sys2Proof/Decode.lean ====
section
/-! DEFINITION. Decoding and encoding (30_encoding.md R43, R44, R49 to R52). Every word of either port is
an operation, so decoding a port's word is total; only a number too wide for the port is rejected. -/

namespace Sys2Proof

/-- EXP's code of a frame kind: 0 status, 1 measurement (10_state.md R16). -/
def FrameKind.bit : FrameKind → BitVec 1
  | .status => 0#1
  | .measurement => 1#1

/-- The frame kind of the operand bit `sel` (30_encoding.md R48). -/
def FrameKind.ofBit (sel : BitVec 1) : FrameKind :=
  if sel = 1#1 then .measurement else .status

/-- The operation code of a command word, bits 9:8 (R43). -/
def opField (w : CmdWord) : BitVec 2 := w.extractLsb' 8 2

/-- The operand byte `d` of a command word, bits 7:0 (R43). -/
def operandField (w : CmdWord) : Byte := w.extractLsb' 0 8

/-- The operation of a command word (R49): op 0 IDLE, 1 BEGIN, 2 PUSH, 3 END. -/
def decodeV (w : CmdWord) : Instr :=
  let d := operandField w
  if opField w = 0b00#2 then .idle d
  else if opField w = 0b01#2 then .beginFrame (d.extractLsb' 1 7) (.ofBit (d.extractLsb' 0 1))
  else if opField w = 0b10#2 then .push d
  else .endFrame d

/-- The operation of a generator input: always GEN, its high byte first (R44). -/
def decodeG (x : Value) : Instr :=
  .gen (x.extractLsb' 8 8) (x.extractLsb' 0 8)

/-- The operation that a port's word stands for; total (R51). -/
def decode : PortWord → Instr
  | .v w => decodeV w
  | .g x => decodeG x

/-- Why a raw number is no operation. -/
inductive DecodeError where
  /-- The number needs more bits than the port has wires (R43, R44). -/
  | tooWide
deriving DecidableEq, Repr

/-- Decode a raw number presented at a port: rejected, by name, when it does not fit the wires. -/
def decodeNumber (p : Port) (n : Nat) : Except DecodeError Instr :=
  if p.fits n then
    .ok (match p with
      | .v => decodeV (BitVec.ofNat 10 n)
      | .g => decodeG (BitVec.ofNat 16 n))
  else .error .tooWide

/-- The word of an operation, on the port it belongs to, from R49's patterns. -/
def encode : Instr → PortWord
  | .idle r => .v (0b00#2 ++ r)
  | .beginFrame r sel => .v (0b01#2 ++ r ++ sel.bit)
  | .push b => .v (0b10#2 ++ b)
  | .endFrame r => .v (0b11#2 ++ r)
  | .gen hi lo => .g (hi ++ lo)

/-- A row of the opcode map (R49): a word `w` of the port belongs to the row when `w &&& mask = bits`. -/
structure OpcodeRow where
  mnemonic : String
  port : Port
  bits : Nat
  mask : Nat
deriving DecidableEq, Repr

/-- The opcode map (R49), in the order of spec/opcode_table.json. -/
def opcodeTable : List OpcodeRow :=
  [ ⟨"IDLE", .v, 0x000, 0x300⟩,
    ⟨"BEGIN", .v, 0x100, 0x300⟩,
    ⟨"PUSH", .v, 0x200, 0x300⟩,
    ⟨"END", .v, 0x300, 0x300⟩,
    ⟨"GEN", .g, 0x0000, 0x0000⟩ ]

/-- Whether a port's word belongs to a row: the row's port, and `(w & mask) == match` (R49). -/
def OpcodeRow.matches (row : OpcodeRow) : PortWord → Bool
  | .v w => row.port == .v && (w.toNat &&& row.mask == row.bits)
  | .g x => row.port == .g && (x.toNat &&& row.mask == row.bits)

/-- The mnemonic of an operation, letter for letter that of spec/opcode_table.json. -/
def Instr.mnemonic : Instr → String
  | .idle _ => "IDLE"
  | .beginFrame _ _ => "BEGIN"
  | .push _ => "PUSH"
  | .endFrame _ => "END"
  | .gen _ _ => "GEN"

/-- The port word of a table row's bits `w`, `nbits` of them. The two ports have no common numbering, so
a number of at most 16 bits that fits the ten wires of `v_cmd` is read as a command word, and a wider one as
a generator input (DESIGN CHOICE, log entry 5). -/
def tableWord (nbits w : Nat) : Option PortWord :=
  if nbits ≤ 16 ∧ Port.v.fits w then some (.v (BitVec.ofNat 10 w))
  else if nbits ≤ 16 ∧ Port.g.fits w then some (.g (BitVec.ofNat 16 w))
  else none

/-- The operation this decoder reads from a table row's bits (the host's interface; log entry 5). -/
def decodeTableWord (nbits w : Nat) : Option Instr :=
  (tableWord nbits w).map decode

end Sys2Proof
end

