-- ==== Sys2Proof/Config.lean ====
section
/-! DEFINITION. The parameters of the block (00_scope.md R5). Every one is fixed by the spec. There is
no free value: the spec leaves no result of the block open (93_implementation_defined.md section 2). -/

namespace Sys2Proof.Config

/-- CRC_POLY: x^8 + x^5 + x^4 + 1 without its x^8 term (R5). -/
def crcPoly : Byte := 0x31#8

/-- CRC_INIT: the accumulator before the first byte of a word (R5). -/
def crcInit : Byte := 0xFF#8

/-- Bit iterations for each input byte (R5, R61). -/
def crcIterations : Nat := 8

/-- WORD_BYTES: bytes of one word on the wire (R5). -/
def wordBytes : Nat := 3

/-- The value at which CNT saturates (R5, R14). -/
def cntMax : Nat := 15

end Sys2Proof.Config
end

