-- ==== Sys2Proof/Machine/Crc.lean ====
section
/-! DEFINITION. The CRC-8 functions (40_crc8.md R60 to R63) and the carry-less product that R70 reads the
check byte with. -/

namespace Sys2Proof.Machine

/-- R60: shift left one place, dropping the high bit; if it was 1, XOR the polynomial in. -/
def crcBitStep (a : Byte) : Byte :=
  if a.getLsbD 7 then (a <<< 1) ^^^ Config.crcPoly else a <<< 1

/-- R61: `i` applications of `crcBitStep`. -/
def crcIter (a : Byte) : Nat → Byte
  | 0 => a
  | i + 1 => crcBitStep (crcIter a i)

/-- R62: the whole byte is XORed in at once, then eight iterations. -/
def crcByteStep (a b : Byte) : Byte :=
  crcIter (a ^^^ b) Config.crcIterations

/-- R63: the check byte of two data bytes, high byte first, from the initial value. -/
def crc8 (hi lo : Byte) : Byte :=
  crcByteStep (crcByteStep Config.crcInit hi) lo

/-- R70: the product over GF(2) of `q` with g = x^8 + x^5 + x^4 + 1. -/
def timesG (q : BitVec 16) : BitVec 24 :=
  (q.setWidth 24 <<< 8) ^^^ (q.setWidth 24 <<< 5) ^^^ (q.setWidth 24 <<< 4) ^^^ q.setWidth 24

end Sys2Proof.Machine
end

