-- ==== Sys2Proof/Machine/State.lean ====
section
/-! DEFINITION. The state of the block: the twelve registers of 10_state.md R10, and what the host does
to its input pins. -/

namespace Sys2Proof.Machine

/-- RES, the verdict code (10_state.md R17). Its four values are the four values of the 2-bit register. -/
inductive Verdict where
  /-- 0 NONE: a frame is being collected, or none has begun. -/
  | none
  /-- 1 OK: the byte count and every examined check byte were right. -/
  | ok
  /-- 2 CHECKSUM: the byte count was right, a check byte was not. -/
  | checksum
  /-- 3 FRAMING: the byte count was not the expected one. -/
  | framing
deriving DecidableEq, Repr

/-- The block's exceptions, raised by END only (60_exceptions.md R100). They are verdicts that END
latches, not stops: the machine goes on. -/
inductive Exc where
  /-- The document's `FramingError` (R101). -/
  | framing
  /-- The document's `ChecksumError(word_index)` (R102). -/
  | checksum (k : Fin 3)
deriving DecidableEq, Repr

/-- The complete architectural state (10_state.md R10): twelve registers, 92 bits. -/
structure Registers where
  /-- ACC, the CRC accumulator (R20). -/
  acc : Byte
  /-- CNT, bytes pushed since the last BEGIN or reset, saturating at 15 (R14). -/
  cnt : BitVec 4
  /-- EXP, the expected frame kind (R16). -/
  exp : FrameKind
  /-- VAL[0..2], the values of the words (R11). -/
  val : PerWord Value
  /-- CHK[0..2], the received check bytes (R12). -/
  chk : PerWord Byte
  /-- BAD, one mismatch flag for each word (R15). -/
  bad : PerWord Bool
  /-- RES, the verdict code (R17). -/
  res : Verdict
  /-- IDX, the failing word index (R18). -/
  idx : BitVec 2
deriving DecidableEq, Repr

/-- One thing the host does to the input pins (30_encoding.md R42, 70_reset_and_hazards.md R129). -/
inductive Event where
  /-- A rising edge of clk with these levels on rst and v_cmd: one step of the block (R79). -/
  | edge (rst : Bool) (vCmd : CmdWord)
  /-- A new level on g_in, between edges: GEN (40_crc8.md R64). No step of the block. -/
  | drive (gIn : Value)
deriving DecidableEq, Repr

/-- The machine: the block's registers, the level on g_in, and the pin events still to come, the next one
first. The last two are the model's own (log entries 1 and 3): the spec calls them inputs. -/
structure State where
  regs : Registers
  gIn : Value
  inputs : List Event
deriving DecidableEq, Repr

/-- The block has no fault, no stall and no stuck state: every command has a step in every state
(41_validator.md R79; 00_scope.md section 7 item 5). So no reason to stop exists. Safe: nothing raises. -/
inductive Fault where
deriving DecidableEq, Repr

/-- Why an instruction has no meaning. -/
inductive Refusal where
  /-- The row of the opcode table has no meaning yet. Raised by an arm of `exec` only; no arm of this model
  raises it. Safe: the machine stops where the hardware goes on. -/
  | notModelled (mnemonic : String)
deriving DecidableEq, Repr

/-- The reset value of every register (10_state.md R10, 70_reset_and_hazards.md R120). -/
def Registers.reset : Registers where
  acc := 0xFF#8
  cnt := 0#4
  exp := .measurement
  val := ⟨0x0000#16, 0x0000#16, 0x0000#16⟩
  chk := ⟨0x00#8, 0x00#8, 0x00#8⟩
  bad := ⟨false, false, false⟩
  res := .none
  idx := 0#2

/-- The machine right after a reset step: every register at the spec's value, nothing pending (log entry 1),
and g_in at 0x0000, a DESIGN CHOICE (log entry 3). -/
def State.reset : State where
  regs := Registers.reset
  gIn := 0x0000#16
  inputs := []

end Sys2Proof.Machine
end

