-- ==== Sys2Proof/Machine/Operands.lean ====
section
/-! DEFINITION. Operand forms: how a word's value is put together and taken apart (30_encoding.md R47),
the effective address of PUSH (41_validator.md R84) and the post-increment of CNT (10_state.md R14). -/

namespace Sys2Proof

/-- `n(EXP)`: the words of a frame of this kind (10_state.md R16). -/
def FrameKind.words : FrameKind → Nat
  | .status => 1
  | .measurement => 3

/-- The expected byte count, 3 x n (00_scope.md R5). -/
def FrameKind.bytes (k : FrameKind) : Nat := Config.wordBytes * k.words

namespace Machine

/-- A word's value from its two bytes, the first received the more significant (20_memory.md R32). -/
def beValue (hi lo : Byte) : Value := hi ++ lo

/-- Bits 15:8 of a value, its first byte. -/
def hiByte (x : Value) : Byte := x.extractLsb' 8 8

/-- Bits 7:0 of a value, its second byte. -/
def loByte (x : Value) : Byte := x.extractLsb' 0 8

/-- The place of a byte inside its word (20_memory.md R31). -/
inductive BytePos where
  | high
  | low
  | check
deriving DecidableEq, Repr

/-- `c div 3`: the word that a frame offset belongs to (R31). -/
def wordOf (o : Fin 9) : Fin 3 := ⟨o.val / 3, by omega⟩

/-- `c mod 3`: the place inside the word that a frame offset stands for (R31). -/
def posOf (o : Fin 9) : BytePos :=
  match o.val % 3 with
  | 0 => .high
  | 1 => .low
  | _ => .check

/-- The cell PUSH stores to: the offset in CNT, or none from 9 on, where no cell exists (R30, R84). -/
def storeOffset (c : BitVec 4) : Option (Fin 9) :=
  if h : c.toNat < 9 then some ⟨c.toNat, h⟩ else none

/-- CNT's saturating increment `min(c + 1, 15)` (R14). -/
def nextCnt (c : BitVec 4) : BitVec 4 :=
  BitVec.ofNat 4 (min (c.toNat + 1) Config.cntMax)

end Machine

end Sys2Proof
end

