-- ==== Sys2Proof/Machine/Flags.lean ====
section
/-! DEFINITION. The flags: BAD's computation (10_state.md R15) and how END reads it (41_validator.md R83). -/

namespace Sys2Proof.Machine

/-- `BAD[k] <- (b != ACC)`: set when the pushed check byte differs from the accumulator (R15). -/
def badFlag (b acc : Byte) : Bool := b != acc

/-- The lowest word index among the examined words whose flag is set: word 0 for a status frame, words
0, 1, 2 for a measurement frame (R15, R83). -/
def firstBad (kind : FrameKind) (bad : PerWord Bool) : Option (Fin 3) :=
  match kind with
  | .status => if bad.w0 then some 0 else none
  | .measurement =>
    if bad.w0 then some 0
    else if bad.w1 then some 1
    else if bad.w2 then some 2
    else none

end Sys2Proof.Machine
end

