-- ==== Sys2Proof/Machine/Ops.lean ====
section
/-! DEFINITION. The named operations over the registers: register writes, the frame store, taking an
exception and leaving it, the reset step. -/

namespace Sys2Proof

/-- The entry of word `k`. -/
def PerWord.get {α : Type} (p : PerWord α) (k : Fin 3) : α :=
  match k with
  | 0 => p.w0
  | 1 => p.w1
  | 2 => p.w2

/-- Replace the entry of word `k`. -/
def PerWord.set {α : Type} (p : PerWord α) (k : Fin 3) (a : α) : PerWord α :=
  match k with
  | 0 => { p with w0 := a }
  | 1 => { p with w1 := a }
  | 2 => { p with w2 := a }

namespace Machine

/-! ## Register writes, `REG <- v` (00_scope.md R7) -/

def Registers.setAcc (r : Registers) (x : Byte) : Registers := { r with acc := x }
def Registers.setCnt (r : Registers) (x : BitVec 4) : Registers := { r with cnt := x }
def Registers.setExp (r : Registers) (x : FrameKind) : Registers := { r with exp := x }
def Registers.setVal (r : Registers) (x : PerWord Value) : Registers := { r with val := x }
def Registers.setChk (r : Registers) (x : PerWord Byte) : Registers := { r with chk := x }
def Registers.setBad (r : Registers) (x : PerWord Bool) : Registers := { r with bad := x }
def Registers.setRes (r : Registers) (x : Verdict) : Registers := { r with res := x }
def Registers.setIdx (r : Registers) (x : BitVec 2) : Registers := { r with idx := x }

/-- Replace the registers; the pins are the host's and stay. -/
def State.setRegs (s : State) (r : Registers) : State := { s with regs := r }
/-- The host drives a new level on g_in. -/
def State.setGIn (s : State) (x : Value) : State := { s with gIn := x }
/-- Replace the pin events still to come. -/
def State.setInputs (s : State) (es : List Event) : State := { s with inputs := es }

/-! ## The frame store (20_memory.md R30, R31) -/

/-- The byte in the frame-store cell at offset `o` (R31's map). -/
def frameCell (r : Registers) (o : Fin 9) : Byte :=
  match posOf o with
  | .high => hiByte (r.val.get (wordOf o))
  | .low => loByte (r.val.get (wordOf o))
  | .check => r.chk.get (wordOf o)

/-- `FrameWrite(c, b)`: store byte `b` in the cell at offset `o`, every other cell unchanged (R31). -/
def frameWrite (o : Fin 9) (b : Byte) (r : Registers) : Registers :=
  let k := wordOf o
  match posOf o with
  | .high => r.setVal (r.val.set k (beValue b (loByte (r.val.get k))))
  | .low => r.setVal (r.val.set k (beValue (hiByte (r.val.get k)) b))
  | .check => r.setChk (r.chk.set k b)

/-! ## The effect of one pushed byte on CRC and flags (41_validator.md R82) -/

/-- What a byte pushed at offset `o` does to ACC and BAD: the first byte of a word starts its CRC from the
initial value, the second goes on from ACC, the third is compared with ACC (R15, R20, R82). -/
def checkByte (o : Fin 9) (b : Byte) (r : Registers) : Registers :=
  match posOf o with
  | .high => r.setAcc (crcByteStep Config.crcInit b)
  | .low => r.setAcc (crcByteStep r.acc b)
  | .check => r.setBad (r.bad.set (wordOf o) (badFlag b r.acc))

/-- A push while a frame is collected: store and check where a cell exists, count in any case (R82, R85).
`frameWrite` touches neither ACC nor BAD, so `checkByte` reads the registers before the step. -/
def pushByte (b : Byte) (r : Registers) : Registers :=
  match storeOffset r.cnt with
  | some o => (checkByte o b (frameWrite o b r)).setCnt (nextCnt r.cnt)
  | none => r.setCnt (nextCnt r.cnt)

/-! ## Taking an exception, and leaving it (60_exceptions.md R106, R107) -/

/-- The verdict code of an exception (R100). -/
def Exc.code : Exc → Verdict
  | .framing => .framing
  | .checksum _ => .checksum

/-- The index an exception records: the word for Checksum, 0 for Framing (R100). -/
def Exc.index : Exc → BitVec 2
  | .framing => 0#2
  | .checksum k => BitVec.ofNat 2 k.val

/-- `raise`: RES takes the code and IDX the index; nothing is saved, no control is transferred (R106). -/
def raise (e : Exc) (r : Registers) : Registers :=
  (r.setRes e.code).setIdx e.index

/-- The verdict OK: RES 1 and IDX 0 (41_validator.md R83). -/
def accept (r : Registers) : Registers :=
  (r.setRes .ok).setIdx 0#2

/-- The exception END raises, if any: Framing before Checksum, and the lowest index (R104, R105). -/
def endException (r : Registers) : Option Exc :=
  if r.cnt.toNat ≠ r.exp.bytes then some .framing
  else (firstBad r.exp r.bad).map .checksum

/-- Latch the verdict (R83). -/
def latchVerdict (r : Registers) : Registers :=
  match endException r with
  | some e => raise e r
  | none => accept r

/-- Start a frame of this kind: every register is written and none is read. It is also the only way out of
an error verdict, beside a reset (41_validator.md R81, 60_exceptions.md R107). -/
def startFrame (kind : FrameKind) : Registers :=
  { acc := Config.crcInit
    cnt := 0#4
    exp := kind
    val := ⟨0x0000#16, 0x0000#16, 0x0000#16⟩
    chk := ⟨0x00#8, 0x00#8, 0x00#8⟩
    bad := ⟨false, false, false⟩
    res := .none
    idx := 0#2 }

/-- The block is done: a verdict is latched (10_state.md R17). -/
def Registers.done (r : Registers) : Bool := r.res != .none

/-- A reset step: every register at its reset value; the pins are the host's (70_reset_and_hazards.md R120). -/
def resetStep (s : State) : State := s.setRegs Registers.reset

end Machine

end Sys2Proof
end

