-- ==== Sys2Proof/Machine/Generator.lean ====
section
/-! DEFINITION. The meaning of GEN, the operation of port G (40_crc8.md R64), and its output. -/

namespace Sys2Proof.Machine

/-- The output port g_crc: combinational, of the level on g_in alone (30_encoding.md R42, R45; R64). -/
def gCrc (s : State) : Byte := crc8 (hiByte s.gIn) (loByte s.gIn)

/-- R64: the host presents {hi, lo} on g_in, and `gCrc` follows at once. No register is read or written. -/
def execGen (hi lo : Byte) (s : State) : Host.Outcome State Fault Refusal :=
  .next (s.setGIn (beValue hi lo))

end Sys2Proof.Machine
end

