-- ==== Sys2Proof/Machine/Validator.lean ====
section
/-! DEFINITION. The meanings of the validator's operations IDLE, BEGIN, PUSH, END (41_validator.md R80 to
R83). The ignored operand bits (30_encoding.md R50) are arguments that no meaning reads. -/

namespace Sys2Proof.Machine

/-- R80: nothing changes, in every state. -/
def execIdle (_r : Byte) (s : State) : Host.Outcome State Fault Refusal :=
  .next s

/-- R81: every register is written, whatever the state. -/
def execBegin (_r : BitVec 7) (sel : FrameKind) (s : State) : Host.Outcome State Fault Refusal :=
  .next (s.setRegs (startFrame sel))

/-- R82: ignored when done (R87); else the byte is stored, checked and counted. -/
def execPush (b : Byte) (s : State) : Host.Outcome State Fault Refusal :=
  if s.regs.done then .next s else .next (s.setRegs (pushByte b s.regs))

/-- R83: ignored when done (R87); else the verdict is latched in RES and IDX. -/
def execEnd (_r : Byte) (s : State) : Host.Outcome State Fault Refusal :=
  if s.regs.done then .next s else .next (s.setRegs (latchVerdict s.regs))

end Sys2Proof.Machine
end

