-- ==== Sys2Proof/Machine/Dispatch.lean ====
section
/-! DEFINITION. One arm for each constructor of `Instr`, each one direct call of its meaning. -/

namespace Sys2Proof.Machine

def exec (i : Instr) (s : State) : Host.Outcome State Fault Refusal :=
  match i with
  | .idle r => Sys2Proof.Machine.execIdle r s
  | .beginFrame r sel => Sys2Proof.Machine.execBegin r sel s
  | .push b => Sys2Proof.Machine.execPush b s
  | .endFrame r => Sys2Proof.Machine.execEnd r s
  | .gen hi lo => Sys2Proof.Machine.execGen hi lo s

end Sys2Proof.Machine
end

