-- ==== Sys2Proof/Machine/Sample.lean ====
section
/-! DEFINITION. What the block does with one pin event (41_validator.md R79, 70_reset_and_hazards.md R120). -/

namespace Sys2Proof.Machine

/-- A rising edge with rst = 1 is a reset step and v_cmd is ignored; with rst = 0 it is the operation of
v_cmd; a new level on g_in is a GEN. -/
def sampleEvent (e : Event) (s : State) : Host.Outcome State Fault Refusal :=
  match e with
  | .edge true _ => .next (resetStep s)
  | .edge false w => exec (decode (.v w)) s
  | .drive x => exec (decode (.g x)) s

/-- The pin event by which the host presents a port's word, with rst low. -/
def Event.ofPortWord : PortWord → Event
  | .v w => .edge false w
  | .g x => .drive x

/-- The pin event by which the host presents an operation. -/
def Event.ofInstr (i : Instr) : Event := .ofPortWord (encode i)

end Sys2Proof.Machine
end

