-- ==== Sys2Proof/Machine/Step.lean ====
section
/-! DEFINITION. One step of the model: the next pin event is taken from the front of the list and applied.
With no event pending nothing happens (log entry 2). -/

namespace Sys2Proof.Machine

/-- One step (41_validator.md R79, 20_memory.md R37: one command a step, in the order presented). -/
def step (s : State) : Host.Outcome State Fault Refusal :=
  match s.inputs with
  | [] => .next s
  | e :: rest => sampleEvent e (s.setInputs rest)

/-- `s` with a table row's word presented as the very next pin event, before those already pending (log
entries 5 and 6). A number that fits no port presents nothing. -/
def State.withFetchWord (s : State) (nbits w : Nat) : State :=
  match tableWord nbits w with
  | some p => s.setInputs (Event.ofPortWord p :: s.inputs)
  | none => s

end Sys2Proof.Machine
end

