-- ==== Sys2Proof/Machine/Ports.lean ====
section
/-! DEFINITION. The validator's output ports (30_encoding.md R42, R45; 41_validator.md R88): functions of
the registers with no state of their own. -/

namespace Sys2Proof.Machine

/-- The levels on the validator's output ports. -/
structure Ports where
  stRes : BitVec 2
  stIdx : BitVec 2
  wNum : BitVec 2
  wVal : PerWord Value
  wChk : PerWord Byte
deriving DecidableEq, Repr

/-- The code of RES (10_state.md R17). -/
def Verdict.code : Verdict → BitVec 2
  | .none => 0#2
  | .ok => 1#2
  | .checksum => 2#2
  | .framing => 3#2

/-- Word `k` is shown: the verdict is OK and the frame has that word (R88). -/
def shown (r : Registers) (k : Fin 3) : Bool :=
  r.res == .ok && decide (k.val < r.exp.words)

/-- A register gated onto its port: the register where its word is shown, else zero (R88). -/
def gated {n : Nat} (r : Registers) (k : Fin 3) (x : BitVec n) : BitVec n :=
  if shown r k then x else 0#n

/-- R88. -/
def ports (r : Registers) : Ports where
  stRes := r.res.code
  stIdx := r.idx
  wNum := if r.res = .ok then BitVec.ofNat 2 (r.exp.words) else 0#2
  wVal := ⟨gated r 0 (r.val.get 0), gated r 1 (r.val.get 1), gated r 2 (r.val.get 2)⟩
  wChk := ⟨gated r 0 (r.chk.get 0), gated r 1 (r.chk.get 1), gated r 2 (r.chk.get 2)⟩

end Sys2Proof.Machine
end

