-- ==== Sys2Proof/Machine/WideCounter.lean ====
section
/-! DEFINITION. The alternative machine of 41_validator.md R97: the byte count is an unbounded natural
number instead of the 4-bit saturating CNT. It exists for one comparison and is no part of `step`. -/

namespace Sys2Proof.Machine

/-- The registers with an unbounded byte count; the field `regs.cnt` is not read by any operation here. -/
structure WideRegisters where
  regs : Registers
  count : Nat
deriving DecidableEq, Repr

/-- PUSH with the unbounded count: below 9 the count is the offset, and it always grows by one. -/
def WideRegisters.push (b : Byte) (w : WideRegisters) : WideRegisters :=
  if w.regs.done then w
  else if h : w.count < 9 then
    { regs := checkByte ⟨w.count, h⟩ b (frameWrite ⟨w.count, h⟩ b w.regs), count := w.count + 1 }
  else { w with count := w.count + 1 }

/-- END with the unbounded count. -/
def WideRegisters.close (w : WideRegisters) : WideRegisters :=
  if w.regs.done then w
  else if w.count ≠ w.regs.exp.bytes then { w with regs := raise .framing w.regs }
  else match firstBad w.regs.exp w.regs.bad with
    | some k => { w with regs := raise (.checksum k) w.regs }
    | none => { w with regs := accept w.regs }

/-- One operation on the alternative machine. -/
def WideRegisters.apply (i : Instr) (w : WideRegisters) : WideRegisters :=
  match i with
  | .idle _ => w
  | .beginFrame _ sel => { regs := startFrame sel, count := 0 }
  | .push b => w.push b
  | .endFrame _ => w.close
  | .gen _ _ => w

/-- One pin event on the alternative machine. -/
def WideRegisters.sample (e : Event) (w : WideRegisters) : WideRegisters :=
  match e with
  | .edge true _ => { regs := Registers.reset, count := 0 }
  | .edge false c => w.apply (decode (.v c))
  | .drive x => w.apply (decode (.g x))

/-- A sequence of pin events, left to right. -/
def WideRegisters.runAll (w : WideRegisters) : List Event → WideRegisters
  | [] => w
  | e :: es => (w.sample e).runAll es

/-- R97's relation between the two machines: the same registers but CNT, and CNT is the count cut off at 15. -/
def WideRegisters.agrees (w : WideRegisters) (r : Registers) : Prop :=
  { w.regs with cnt := r.cnt } = r ∧ r.cnt.toNat = min w.count 15

end Sys2Proof.Machine
end

