-- ==== Sys2Proof/Machine/FrameFunction.lean ====
section
/-! DEFINITION. The function the block computes, `decode(raw, n)` (41_validator.md R76), and its image on
the ports, `enc` (R77). It owes nothing to the registers. -/

namespace Sys2Proof.Machine

/-- A word as received: value and check byte (30_encoding.md R40). -/
structure FrameWord where
  value : Value
  check : Byte
deriving DecidableEq, Repr

/-- The result of validating one frame (R76). -/
inductive FrameResult where
  | framing
  | checksum (k : Nat)
  | ok (words : List FrameWord)
deriving DecidableEq, Repr

/-- A word is valid when its check byte is the CRC of its two data bytes (30_encoding.md R40). -/
def FrameWord.valid (w : FrameWord) : Bool :=
  crc8 (hiByte w.value) (loByte w.value) == w.check

/-- The three-byte groups of a byte sequence, in order; a rest shorter than a word is left out (the length
test of `decodeFrame` comes first, so it never decides a result). -/
def groups : List Byte → List FrameWord
  | hi :: lo :: c :: rest => ⟨beValue hi lo, c⟩ :: groups rest
  | _ => []

/-- The words from index `k` on, examined in ascending order: the first failure is reported (R76). -/
def examine (k : Nat) : List FrameWord → Option Nat
  | [] => none
  | w :: ws => if w.valid then examine (k + 1) ws else some k

/-- `decode(raw, n)`: the length first, then the words in order, then all of them (R76). -/
def decodeFrame (raw : List Byte) (n : Nat) : FrameResult :=
  if raw.length ≠ 3 * n then .framing
  else match examine 0 (groups raw) with
    | some k => .checksum k
    | none => .ok (groups raw)

/-- The value and check byte that the ports of word `k` show: zero where no such word is. -/
def FrameWord.at (ws : List FrameWord) (k : Nat) : FrameWord := ws.getD k ⟨0x0000#16, 0x00#8⟩

/-- `enc(result, n)` on the ports (R77). -/
def encResult (n : Nat) : FrameResult → Ports
  | .framing => ⟨3#2, 0#2, 0#2, ⟨0#16, 0#16, 0#16⟩, ⟨0#8, 0#8, 0#8⟩⟩
  | .checksum k => ⟨2#2, BitVec.ofNat 2 k, 0#2, ⟨0#16, 0#16, 0#16⟩, ⟨0#8, 0#8, 0#8⟩⟩
  | .ok ws =>
    ⟨1#2, 0#2, BitVec.ofNat 2 n,
      ⟨(FrameWord.at ws 0).value, (FrameWord.at ws 1).value, (FrameWord.at ws 2).value⟩,
      ⟨(FrameWord.at ws 0).check, (FrameWord.at ws 1).check, (FrameWord.at ws 2).check⟩⟩

end Sys2Proof.Machine
end

