-- ==== Sys2Proof/Machine/Pseudo.lean ====
section
/-! DEFINITION. The pseudo-operations of the assembly notation (30_encoding.md R53 to R56), as the
operations they expand to. Ignored operand bits are zero, as in the canonical words (R49). -/

namespace Sys2Proof.Machine

/-- WORD 0xHHLL, 0xCC: value, then check byte (R54). -/
def pseudoWord (value : Value) (c : Byte) : List Instr :=
  [.push (hiByte value), .push (loByte value), .push c]

/-- WORDOK 0xHHLL: WORD with the valid check byte (R55). -/
def pseudoWordOk (value : Value) : List Instr :=
  pseudoWord value (crc8 (hiByte value) (loByte value))

/-- FRAME S or M, b0, ..., b(m-1): BEGIN, the pushes, END; `raw` may have any length (R56). -/
def pseudoFrame (kind : FrameKind) (raw : List Byte) : List Instr :=
  [.beginFrame 0#7 kind] ++ raw.map .push ++ [.endFrame 0#8]

end Sys2Proof.Machine
end

