-- ==== Sys2Proof/Safety.lean ====
section
/-! DEFINITION. What claims about the machine are stated in: runs of several steps, the invariant of
reachable states (10_state.md R21), and the frame run (41_validator.md R93). -/

namespace Sys2Proof.Machine

/-- `n` steps, stopping at the first fault or refusal. -/
def run (n : Nat) (s : State) : Host.Outcome State Fault Refusal :=
  Host.Core.run Sys2Proof.core n s

/-- The machine with these pin events still to come. -/
def State.given (s : State) (es : List Event) : State := s.setInputs es

/-- Take these pin events, one a step. -/
def feed (es : List Event) (s : State) : Host.Outcome State Fault Refusal :=
  run es.length (s.given es)

/-- `crc8` of the two data bytes held for word `k`. -/
def computedCheck (r : Registers) (k : Fin 3) : Byte :=
  crc8 (hiByte (r.val.get k)) (loByte (r.val.get k))

/-- The bytes stored, c = min(CNT, 9) (R21). -/
def storedCount (r : Registers) : Nat := min r.cnt.toNat 9

/-- The invariant of reachable states, item by item as 10_state.md R21 numbers them. -/
structure RegInv (r : Registers) : Prop where
  /-- Item 1: the cells from the stored count on hold zero. -/
  emptyCells : ∀ o : Fin 9, storedCount r ≤ o.val → frameCell r o = 0x00#8
  /-- Item 1: no flag is set for a word whose check byte has not come. -/
  emptyFlags : ∀ k : Fin 3, storedCount r ≤ 3 * k.val + 2 → r.bad.get k = false
  /-- Item 2: a complete word's flag says whether its check byte is wrong. -/
  completeFlags : ∀ k : Fin 3, 3 * k.val + 3 ≤ storedCount r →
    r.bad.get k = (r.chk.get k != computedCheck r k)
  /-- Item 3: no byte yet. -/
  accStart : r.cnt = 0#4 → r.acc = 0xFF#8
  /-- Item 3: the last byte stored was a word's first. -/
  accHigh : ∀ k : Fin 3, storedCount r = 3 * k.val + 1 →
    r.acc = crcByteStep 0xFF#8 (hiByte (r.val.get k))
  /-- Item 3: the last byte stored was a word's second or its check byte. -/
  accWord : ∀ k : Fin 3, storedCount r = 3 * k.val + 2 ∨ storedCount r = 3 * k.val + 3 →
    r.acc = computedCheck r k
  /-- Item 4: an index is held under CHECKSUM only. -/
  idxOnlyChecksum : r.idx ≠ 0#2 → r.res = .checksum
  /-- Item 4: under CHECKSUM the index is that of the first wrong word of a frame of the right length. -/
  checksumVerdict : r.res = .checksum →
    r.idx.toNat < r.exp.words ∧ r.cnt.toNat = r.exp.bytes ∧
    ∀ k : Fin 3, (k.val = r.idx.toNat → r.bad.get k = true) ∧ (k.val < r.idx.toNat → r.bad.get k = false)
  /-- Item 5. -/
  okVerdict : r.res = .ok →
    r.cnt.toNat = r.exp.bytes ∧
    ∀ k : Fin 3, k.val < r.exp.words → r.bad.get k = false
  /-- Item 6. -/
  framingVerdict : r.res = .framing → r.cnt.toNat ≠ r.exp.bytes
  /-- Item 7 (CNT is at most 15 by its width). -/
  idxRange : r.idx.toNat ≤ 2

/-- The operation of a pin event, if it presents one: a reset step presents none. -/
def Event.instr? : Event → Option Instr
  | .edge true _ => none
  | .edge false w => some (decode (.v w))
  | .drive x => some (decode (.g x))

/-- The frame kind that a frame run's first event selects: a reset step or BEGIN (41_validator.md R93). -/
def Event.starts? (e : Event) : Option FrameKind :=
  match e with
  | .edge true _ => some .measurement
  | _ => match e.instr? with
    | some (.beginFrame _ sel) => some sel
    | _ => none

/-- An event that may stand inside a frame run: PUSH or IDLE, and GEN, which is no step of port V. -/
def Event.inside (e : Event) : Bool :=
  match e.instr? with
  | some (.push _) => true
  | some (.idle _) => true
  | some (.gen _ _) => true
  | _ => false

/-- An event that presents END. -/
def Event.ends (e : Event) : Bool :=
  match e.instr? with
  | some (.endFrame _) => true
  | _ => false

/-- `raw`: the operands of the pushes, in order (R93). -/
def pushed : List Event → List Byte
  | [] => []
  | e :: es =>
    match e.instr? with
    | some (.push b) => b :: pushed es
    | _ => pushed es

/-- The events that are no IDLE and no GEN: those that can change a register. -/
def acting (es : List Event) : List Event :=
  es.filter fun e =>
    match e.instr? with
    | some (.idle _) => false
    | some (.gen _ _) => false
    | _ => true

end Sys2Proof.Machine
end

