-- ==== Sys2Proof/Certificates/Slice0/Obligations.lean ====
section
/-! DEFINITION. The statements for the provers. Each docstring names the rule of spec/ it formalises. -/

open Sys2Proof Sys2Proof.Machine

/-! ## Encoding -/

/-- 30_encoding.md R43, R44, R49: no bit of an operation is lost between encoder and decoder. -/
def Obligations.DecodeEncodeRoundTrip : Prop :=
  ∀ i : Instr, i.wellFormed = true → decode (encode i) = i

/-- The decoder reads every operand field of 30_encoding.md R49, so encoding gives the port word back. That a
word with ignored bits set comes back whole is the model's choice: they are kept as operands (log entry 7). -/
def Obligations.EncodeDecodeRoundTrip : Prop :=
  ∀ p : PortWord, encode (decode p) = p

/-- 30_encoding.md R49: match, mask and operand fields of every row; each command word matches exactly one
of the four V rows; every generator input is a GEN operand; the canonical words. -/
def Obligations.EveryWordIsItsOpcodeRow : Prop :=
  (∀ w : CmdWord,
    (w &&& 0x300#10 = 0x000#10 → decode (.v w) = .idle (w.extractLsb' 0 8)) ∧
    (w &&& 0x300#10 = 0x100#10 → decode (.v w) =
      .beginFrame (w.extractLsb' 1 7) (if w.getLsbD 0 then .measurement else .status)) ∧
    (w &&& 0x300#10 = 0x200#10 → decode (.v w) = .push (w.extractLsb' 0 8)) ∧
    (w &&& 0x300#10 = 0x300#10 → decode (.v w) = .endFrame (w.extractLsb' 0 8)) ∧
    ([0x000#10, 0x100#10, 0x200#10, 0x300#10].filter fun m => w &&& 0x300#10 == m).length = 1) ∧
  (∀ x : Value, decode (.g x) = .gen (x.extractLsb' 8 8) (x.extractLsb' 0 8)) ∧
  encode (.idle 0#8) = .v 0x000#10 ∧
  encode (.beginFrame 0#7 .status) = .v 0x100#10 ∧
  encode (.beginFrame 0#7 .measurement) = .v 0x101#10 ∧
  (∀ b : Byte, encode (.push b) = .v (0x200#10 + b.setWidth 10)) ∧
  encode (.endFrame 0#8) = .v 0x300#10

/-- 30_encoding.md R49, R53: words written out from the encodings' bit patterns. -/
def Obligations.WrittenOutWordsDecode : Prop :=
  decode (.v 0b0010100111#10) = .idle 0xA7#8 ∧
  decode (.v 0b0100000000#10) = .beginFrame 0#7 .status ∧
  decode (.v 0b0111111111#10) = .beginFrame 0x7F#7 .measurement ∧
  decode (.v 0b1011110100#10) = .push 0xF4#8 ∧
  decode (.v 0b1110100101#10) = .endFrame 0xA5#8 ∧
  decode (.g 0b0000000111110100#16) = .gen 0x01#8 0xF4#8

/-- 30_encoding.md R50: the ignored operand bits change nothing, in any state, and they are the only ones:
another byte of PUSH, another sel of BEGIN, another operand of GEN makes a difference somewhere. The clause of
GEN is the model's choice, not R50's: its operands differ in the level on g_in, a field of State (log entries 3
and 4); by 40_crc8.md R64 GEN writes no state, and two operands may give the same g_crc. -/
def Obligations.IgnoredBitsAreTheOnlyOnes : Prop :=
  (∀ (r : Byte) (s : State), exec (.idle r) s = exec (.idle 0#8) s) ∧
  (∀ (r : Byte) (s : State), exec (.endFrame r) s = exec (.endFrame 0#8) s) ∧
  (∀ (r : BitVec 7) (sel : FrameKind) (s : State),
    exec (.beginFrame r sel) s = exec (.beginFrame 0#7 sel) s) ∧
  (∀ b b' : Byte, (∀ s, exec (.push b) s = exec (.push b') s) → b = b') ∧
  (∀ (r r' : BitVec 7) (sel sel' : FrameKind),
    (∀ s, exec (.beginFrame r sel) s = exec (.beginFrame r' sel') s) → sel = sel') ∧
  (∀ hi lo hi' lo' : Byte, (∀ s, exec (.gen hi lo) s = exec (.gen hi' lo') s) → hi = hi' ∧ lo = lo')

/-- 30_encoding.md R54, R55: what WORD and WORDOK expand to. -/
def Obligations.WordPseudoOperationsExpand : Prop :=
  (∀ hh ll c : Byte, pseudoWord (hh ++ ll) c = [.push hh, .push ll, .push c]) ∧
  (∀ hh ll : Byte, pseudoWordOk (hh ++ ll) = pseudoWord (hh ++ ll) (crc8 hh ll))

/-! ## The CRC functions -/

/-- 40_crc8.md R60: the formula with its 9-bit shift and mask, and the result bit by bit. -/
def Obligations.BitStepIsShiftWithFeedback : Prop :=
  ∀ a : Byte,
    crcBitStep a =
      (if a.getLsbD 7 then ((a.setWidth 9 <<< 1) ^^^ 0x31#9) &&& 0xFF#9
       else (a.setWidth 9 <<< 1) &&& 0xFF#9).setWidth 8 ∧
    (crcBitStep a).getLsbD 7 = a.getLsbD 6 ∧
    (crcBitStep a).getLsbD 6 = a.getLsbD 5 ∧
    (crcBitStep a).getLsbD 5 = (a.getLsbD 4 ^^ a.getLsbD 7) ∧
    (crcBitStep a).getLsbD 4 = (a.getLsbD 3 ^^ a.getLsbD 7) ∧
    (crcBitStep a).getLsbD 3 = a.getLsbD 2 ∧
    (crcBitStep a).getLsbD 2 = a.getLsbD 1 ∧
    (crcBitStep a).getLsbD 1 = a.getLsbD 0 ∧
    (crcBitStep a).getLsbD 0 = a.getLsbD 7

/-- 40_crc8.md R61, R62, R63: eight iterations after one XOR for a byte; two bytes, high first, from 0xFF;
the document's own vector. -/
def Obligations.CrcIsTwoByteStepsFromFF : Prop :=
  (∀ a : Byte, crcIter a 0 = a) ∧
  (∀ (a : Byte) (i : Nat), crcIter a (i + 1) = crcBitStep (crcIter a i)) ∧
  (∀ a b : Byte, crcByteStep a b = crcIter (a ^^^ b) 8) ∧
  (∀ hi lo : Byte, crc8 hi lo = crcByteStep (crcByteStep 0xFF#8 hi) lo) ∧
  crc8 0x01#8 0xF4#8 = 0x33#8

/-- 40_crc8.md R67: linearity, the table's law, its values at the single-bit inputs, every other entry as
the XOR of those for the set bits, and crc8 by two look-ups. -/
def Obligations.ByteStepIsLinearTable : Prop :=
  (∀ a c : Byte, crcBitStep (a ^^^ c) = crcBitStep a ^^^ crcBitStep c) ∧
  crcBitStep 0#8 = 0#8 ∧
  (∀ a b : Byte, crcByteStep a b = crcIter (a ^^^ b) 8) ∧
  (∀ x y : Byte, crcIter (x ^^^ y) 8 = crcIter x 8 ^^^ crcIter y 8) ∧
  crcIter 0#8 8 = 0#8 ∧
  crcIter 0x01#8 8 = 0x31#8 ∧ crcIter 0x02#8 8 = 0x62#8 ∧
  crcIter 0x04#8 8 = 0xC4#8 ∧ crcIter 0x08#8 8 = 0xB9#8 ∧
  crcIter 0x10#8 8 = 0x43#8 ∧ crcIter 0x20#8 8 = 0x86#8 ∧
  crcIter 0x40#8 8 = 0x3D#8 ∧ crcIter 0x80#8 8 = 0x7A#8 ∧
  (∀ x : Byte, crcIter x 8 =
    (if x.getLsbD 0 then 0x31#8 else 0#8) ^^^ (if x.getLsbD 1 then 0x62#8 else 0#8) ^^^
    (if x.getLsbD 2 then 0xC4#8 else 0#8) ^^^ (if x.getLsbD 3 then 0xB9#8 else 0#8) ^^^
    (if x.getLsbD 4 then 0x43#8 else 0#8) ^^^ (if x.getLsbD 5 then 0x86#8 else 0#8) ^^^
    (if x.getLsbD 6 then 0x3D#8 else 0#8) ^^^ (if x.getLsbD 7 then 0x7A#8 else 0#8)) ∧
  (∀ hi lo : Byte, crc8 hi lo = crcIter (crcIter (0xFF#8 ^^^ hi) 8 ^^^ lo) 8)

/-- 40_crc8.md R68: one byte step as an XOR network. -/
def Obligations.ByteStepIsXorNetwork : Prop :=
  ∀ a b x n : Byte, x = a ^^^ b → n = crcByteStep a b →
    n.getLsbD 7 = (x.getLsbD 5 ^^ x.getLsbD 3 ^^ x.getLsbD 2) ∧
    n.getLsbD 6 = (x.getLsbD 7 ^^ x.getLsbD 4 ^^ x.getLsbD 2 ^^ x.getLsbD 1) ∧
    n.getLsbD 5 = (x.getLsbD 7 ^^ x.getLsbD 6 ^^ x.getLsbD 3 ^^ x.getLsbD 1 ^^ x.getLsbD 0) ∧
    n.getLsbD 4 = (x.getLsbD 7 ^^ x.getLsbD 6 ^^ x.getLsbD 3 ^^ x.getLsbD 0) ∧
    n.getLsbD 3 = (x.getLsbD 7 ^^ x.getLsbD 6 ^^ x.getLsbD 3) ∧
    n.getLsbD 2 = (x.getLsbD 6 ^^ x.getLsbD 5 ^^ x.getLsbD 2) ∧
    n.getLsbD 1 = (x.getLsbD 7 ^^ x.getLsbD 5 ^^ x.getLsbD 4 ^^ x.getLsbD 1) ∧
    n.getLsbD 0 = (x.getLsbD 6 ^^ x.getLsbD 4 ^^ x.getLsbD 3 ^^ x.getLsbD 0)

/-- 40_crc8.md R69: the table is a bijection; so is crc8 in either byte; each check byte belongs to exactly
256 values; a word's own check byte, and no other, drives the accumulator to zero. -/
def Obligations.CheckBytesAreEvenlySpread : Prop :=
  Function.Bijective (fun x : Byte => crcIter x 8) ∧
  (∀ hi : Byte, Function.Bijective fun lo : Byte => crc8 hi lo) ∧
  (∀ lo : Byte, Function.Bijective fun hi : Byte => crc8 hi lo) ∧
  (∀ c : Byte, (Finset.univ.filter fun v : Value => crc8 (hiByte v) (loByte v) = c).card = 256) ∧
  (∀ hi lo c : Byte, crcByteStep (crc8 hi lo) c = 0#8 ↔ c = crc8 hi lo)

/-- 40_crc8.md R70: with g = x^8 + x^5 + x^4 + 1 over GF(2), the byte step is the remainder of
(a XOR b) x^8, and crc8 the remainder of (hi XOR 0xFF) x^16 + lo x^8: a multiple of g away, and of degree
below 8; no other byte is. -/
def Obligations.CrcIsPolynomialRemainder : Prop :=
  (∀ a b r : Byte, r = crcByteStep a b ↔
    ∃ q : BitVec 16, timesG q ^^^ r.setWidth 24 = (a ^^^ b).setWidth 24 <<< 8) ∧
  (∀ hi lo r : Byte, r = crc8 hi lo ↔
    ∃ q : BitVec 16, timesG q ^^^ r.setWidth 24 =
      ((hi ^^^ 0xFF#8).setWidth 24 <<< 16) ^^^ (lo.setWidth 24 <<< 8))

/-- 40_crc8.md R71: replacing exactly one byte of a valid word makes it invalid; what a changed data byte
does to the check byte. -/
def Obligations.SingleByteCorruptionIsCaught : Prop :=
  ∀ hi lo c : Byte, crc8 hi lo = c →
    (∀ c', c' ≠ c → crc8 hi lo ≠ c') ∧
    (∀ hi', hi' ≠ hi → crc8 hi' lo ≠ c) ∧
    (∀ lo', lo' ≠ lo → crc8 hi lo' ≠ c) ∧
    (∀ e, crc8 (hi ^^^ e) lo = c ^^^ crcIter (crcIter e 8) 8) ∧
    (∀ e, crc8 hi (lo ^^^ e) = c ^^^ crcIter e 8) ∧
    (∀ e : Byte, e ≠ 0#8 → crcIter e 8 ≠ 0#8 ∧ crcIter (crcIter e 8) 8 ≠ 0#8)

/-- 40_crc8.md R72: 255 other values share each value's check byte; 0x0131 is the smallest that shares that
of 0x0000; and the validator accepts whatever word carries the right check byte. -/
def Obligations.CollisionsPassUnnoticed : Prop :=
  (∀ v : Value, (Finset.univ.filter fun u : Value =>
    u ≠ v ∧ crc8 (hiByte u) (loByte u) = crc8 (hiByte v) (loByte v)).card = 255) ∧
  crc8 0x00#8 0x00#8 = 0x81#8 ∧ crc8 0x01#8 0x31#8 = 0x81#8 ∧
  (∀ v : Value, 0 < v.toNat → v.toNat < 0x0131 → crc8 (hiByte v) (loByte v) ≠ 0x81#8) ∧
  (∀ hi lo c : Byte, crc8 hi lo = c → decodeFrame [hi, lo, c] 1 = .ok [⟨hi ++ lo, c⟩])

/-! ## The generator -/

/-- 40_crc8.md R64: GEN runs in every state, g_crc shows crc8 of the two bytes of g_in, no register changes,
and the same input gives the same output again; the corner cases and the worked example. -/
def Obligations.GenGivesTheCheckByte : Prop :=
  (∀ hi lo : Byte, decode (.g (hi ++ lo)) = .gen hi lo) ∧
  (∀ (hi lo : Byte) (s : State), ∃ t, exec (.gen hi lo) s = .next t ∧
    gCrc t = crc8 hi lo ∧ t.gIn = hi ++ lo ∧ t.regs = s.regs ∧ t.inputs = s.inputs ∧
    exec (.gen hi lo) t = .next t) ∧
  (∀ s : State, gCrc s = crc8 (s.gIn.extractLsb' 8 8) (s.gIn.extractLsb' 0 8)) ∧
  crc8 0x00#8 0x00#8 = 0x81#8 ∧ crc8 0xFF#8 0xFF#8 = 0xAC#8 ∧ crc8 0xFF#8 0x00#8 = 0x00#8 ∧
  crc8 0x00#8 0x50#8 = 0xFF#8 ∧ crc8 0x01#8 0xF4#8 = 0x33#8

/-! ## Reset -/

/-- 10_state.md R10, the column "reset": the registers right after reset. -/
def Obligations.ResetRegisterValues : Prop :=
  State.reset.regs =
    { acc := 0xFF#8, cnt := 0#4, exp := .measurement
      val := ⟨0x0000#16, 0x0000#16, 0x0000#16⟩, chk := ⟨0x00#8, 0x00#8, 0x00#8⟩
      bad := ⟨false, false, false⟩, res := .none, idx := 0#2 }

/-- 70_reset_and_hazards.md R120: a step with rst = 1, whatever v_cmd and whatever the state. -/
def Obligations.ResetStepFromEveryState : Prop :=
  ∀ (w : CmdWord) (rest : List Event) (s : State), s.inputs = .edge true w :: rest →
    ∃ t, step s = .next t ∧
      t.regs =
        { acc := 0xFF#8, cnt := 0#4, exp := .measurement
          val := ⟨0x0000#16, 0x0000#16, 0x0000#16⟩, chk := ⟨0x00#8, 0x00#8, 0x00#8⟩
          bad := ⟨false, false, false⟩, res := .none, idx := 0#2 } ∧
      ports t.regs = ⟨0#2, 0#2, 0#2, ⟨0#16, 0#16, 0#16⟩, ⟨0#8, 0#8, 0#8⟩⟩ ∧
      gCrc t = gCrc s ∧ t.gIn = s.gIn ∧ t.inputs = rest

/-- 70_reset_and_hazards.md R121: a reset step and a BEGIN M step lead to the same state, with the same
events to come, so either may begin a frame run; and its registers are the reset registers. -/
def Obligations.ResetEqualsBeginMeasurement : Prop :=
  ∀ (w : CmdWord) (rest : List Event) (s : State),
    step (s.setInputs (.edge true w :: rest)) = step (s.setInputs (.edge false 0x101#10 :: rest)) ∧
    exec (.beginFrame 0#7 .measurement) s = .next { s with regs := State.reset.regs } ∧
    State.reset.regs.exp = .measurement

/-! ## The operations of the validator -/

/-- 41_validator.md R80: IDLE runs in every state and changes nothing; IDLEs anywhere in a sequence leave
its outcome unchanged. -/
def Obligations.IdleChangesNothing : Prop :=
  (∀ r : Byte, decode (.v (0b00#2 ++ r)) = .idle r) ∧
  (∀ (r : Byte) (s : State), exec (.idle r) s = .next s) ∧
  (∀ (r : Byte) (before after : List Event) (s : State),
    feed (before ++ .edge false (0b00#2 ++ r) :: after) s = feed (before ++ after) s)

/-- 41_validator.md R81: BEGIN runs in every state and writes every register; a second BEGIN alone counts;
nothing from before it reaches any later register or port. -/
def Obligations.BeginStartsFresh : Prop :=
  (∀ (r : BitVec 7) (sel : BitVec 1), decode (.v (0b01#2 ++ r ++ sel)) =
    .beginFrame r (if sel = 1#1 then .measurement else .status)) ∧
  (∀ (r : BitVec 7) (sel : FrameKind) (s : State),
    exec (.beginFrame r sel) s = .next { s with regs :=
      { exp := sel, acc := 0xFF#8, cnt := 0#4
        val := ⟨0x0000#16, 0x0000#16, 0x0000#16⟩, chk := ⟨0x00#8, 0x00#8, 0x00#8⟩
        bad := ⟨false, false, false⟩, res := .none, idx := 0#2 } }) ∧
  (∀ (r r' : BitVec 7) (sel sel' : FrameKind) (s t : State), exec (.beginFrame r sel) s = .next t →
    exec (.beginFrame r' sel') t = exec (.beginFrame r' sel') s) ∧
  (∀ s : State, exec (.beginFrame 0#7 .measurement) s = .next { s with regs := State.reset.regs } ∧
    exec (.beginFrame 0#7 .status) s =
      .next { s with regs := { State.reset.regs with exp := .status } }) ∧
  (∀ (r : BitVec 7) (sel : FrameKind) (es : List Event) (s s' : State), ∃ t t',
    feed (Event.ofInstr (.beginFrame r sel) :: es) s = .next t ∧
    feed (Event.ofInstr (.beginFrame r sel) :: es) s' = .next t' ∧
    t.regs = t'.regs ∧ ports t.regs = ports t'.regs)

/-- 41_validator.md R82: PUSH in every state, place by place of the byte in its word, with `k` the word
index and `c = 3k + p` the count before the step. -/
def Obligations.PushStoresChecksAndCounts : Prop :=
  (∀ b : Byte, decode (.v (0b10#2 ++ b)) = .push b) ∧
  ∀ (b : Byte) (s : State),
    (s.regs.res ≠ .none → exec (.push b) s = .next s) ∧
    (s.regs.res = .none → 9 ≤ s.regs.cnt.toNat →
      exec (.push b) s = .next { s with regs :=
        { s.regs with cnt := BitVec.ofNat 4 (min (s.regs.cnt.toNat + 1) 15) } }) ∧
    ∀ k : Fin 3, s.regs.res = .none →
      (s.regs.cnt.toNat = 3 * k.val →
        exec (.push b) s = .next { s with regs :=
          { s.regs with
            val := s.regs.val.set k (b ++ (s.regs.val.get k).extractLsb' 0 8)
            acc := crcByteStep 0xFF#8 b
            cnt := BitVec.ofNat 4 (min (s.regs.cnt.toNat + 1) 15) } }) ∧
      (s.regs.cnt.toNat = 3 * k.val + 1 →
        exec (.push b) s = .next { s with regs :=
          { s.regs with
            val := s.regs.val.set k ((s.regs.val.get k).extractLsb' 8 8 ++ b)
            acc := crcByteStep s.regs.acc b
            cnt := BitVec.ofNat 4 (min (s.regs.cnt.toNat + 1) 15) } }) ∧
      (s.regs.cnt.toNat = 3 * k.val + 2 →
        exec (.push b) s = .next { s with regs :=
          { s.regs with
            chk := s.regs.chk.set k b
            bad := s.regs.bad.set k (b != s.regs.acc)
            cnt := BitVec.ofNat 4 (min (s.regs.cnt.toNat + 1) 15) } })

/-- 20_memory.md R31: `FrameWrite` at every offset, and the map from offsets to cells. -/
def Obligations.FrameStoreLayout : Prop :=
  (∀ (r : Registers) (b : Byte) (o : Fin 9) (k : Fin 3),
    (o.val = 3 * k.val → frameWrite o b r =
      { r with val := r.val.set k (b ++ (r.val.get k).extractLsb' 0 8) }) ∧
    (o.val = 3 * k.val + 1 → frameWrite o b r =
      { r with val := r.val.set k ((r.val.get k).extractLsb' 8 8 ++ b) }) ∧
    (o.val = 3 * k.val + 2 → frameWrite o b r = { r with chk := r.chk.set k b })) ∧
  (∀ r : Registers,
    frameCell r 0 = r.val.w0.extractLsb' 8 8 ∧ frameCell r 1 = r.val.w0.extractLsb' 0 8 ∧
    frameCell r 2 = r.chk.w0 ∧
    frameCell r 3 = r.val.w1.extractLsb' 8 8 ∧ frameCell r 4 = r.val.w1.extractLsb' 0 8 ∧
    frameCell r 5 = r.chk.w1 ∧
    frameCell r 6 = r.val.w2.extractLsb' 8 8 ∧ frameCell r 7 = r.val.w2.extractLsb' 0 8 ∧
    frameCell r 8 = r.chk.w2) ∧
  (∀ (r : Registers) (b : Byte) (o o' : Fin 9),
    frameCell (frameWrite o b r) o' = if o' = o then b else frameCell r o')

/-- 20_memory.md R30, R31; 41_validator.md R82, R84: the frame of PUSH. The cell stored to is the one
`storeOffset` gives for CNT before the step; every other cell, and every register PUSH does not name, stays. -/
def Obligations.PushFrame : Prop :=
  ∀ (b : Byte) (s t : State), exec (.push b) s = .next t →
    (∀ o : Fin 9, frameCell t.regs o =
      if s.regs.res = .none ∧ storeOffset s.regs.cnt = some o then b else frameCell s.regs o) ∧
    (∀ k : Fin 3, ¬ (s.regs.res = .none ∧ s.regs.cnt.toNat = 3 * k.val + 2) →
      t.regs.bad.get k = s.regs.bad.get k) ∧
    ((s.regs.res ≠ .none ∨ 9 ≤ s.regs.cnt.toNat ∨ s.regs.cnt.toNat % 3 = 2) → t.regs.acc = s.regs.acc) ∧
    (s.regs.res ≠ .none → t.regs.cnt = s.regs.cnt) ∧
    t.regs.exp = s.regs.exp ∧ t.regs.res = s.regs.res ∧ t.regs.idx = s.regs.idx ∧
    t.gIn = s.gIn ∧ t.inputs = s.inputs

/-- 41_validator.md R85: from the tenth byte on a push only counts, and the frame can no longer be valid
for either kind: END reports FRAMING. -/
def Obligations.PushPastNineOnlyCounts : Prop :=
  ∀ (b r : Byte) (s : State), s.regs.res = .none → 9 ≤ s.regs.cnt.toNat →
    ∃ t, exec (.push b) s = .next t ∧
      t = { s with regs := { s.regs with cnt := BitVec.ofNat 4 (min (s.regs.cnt.toNat + 1) 15) } } ∧
      10 ≤ t.regs.cnt.toNat ∧
      ∃ u, exec (.endFrame r) t = .next u ∧ u.regs.res = .framing

/-- 41_validator.md R86: PUSH acts the same for both frame kinds; and a status frame longer than three
bytes ends in FRAMING with nothing shown. -/
def Obligations.PushIgnoresFrameKind : Prop :=
  (∀ (b : Byte) (k : FrameKind) (s : State), ∃ t, exec (.push b) s = .next t ∧
    exec (.push b) { s with regs := { s.regs with exp := k } } =
      .next { t with regs := { t.regs with exp := k } }) ∧
  (∀ (r : Byte) (s : State), s.regs.res = .none → s.regs.exp = .status → 3 < s.regs.cnt.toNat →
    ∃ t, exec (.endFrame r) s = .next t ∧
      ports t.regs = ⟨3#2, 0#2, 0#2, ⟨0#16, 0#16, 0#16⟩, ⟨0#8, 0#8, 0#8⟩⟩)

/-- 41_validator.md R83: END in every state, with `n` the words expected: nothing when done; else the length
first, then the flags of the examined words in ascending order. -/
def Obligations.EndLatchesTheVerdict : Prop :=
  (∀ r : Byte, decode (.v (0b11#2 ++ r)) = .endFrame r) ∧
  ∀ (r : Byte) (s : State) (n : Nat), n = (if s.regs.exp = .measurement then 3 else 1) →
    (s.regs.res ≠ .none → exec (.endFrame r) s = .next s) ∧
    (s.regs.res = .none → s.regs.cnt.toNat ≠ 3 * n →
      exec (.endFrame r) s = .next { s with regs := { s.regs with res := .framing, idx := 0#2 } }) ∧
    (s.regs.res = .none → s.regs.cnt.toNat = 3 * n → s.regs.bad.w0 = true →
      exec (.endFrame r) s = .next { s with regs := { s.regs with res := .checksum, idx := 0#2 } }) ∧
    (s.regs.res = .none → s.regs.cnt.toNat = 3 * n → s.regs.bad.w0 = false → n = 3 →
      s.regs.bad.w1 = true →
      exec (.endFrame r) s = .next { s with regs := { s.regs with res := .checksum, idx := 1#2 } }) ∧
    (s.regs.res = .none → s.regs.cnt.toNat = 3 * n → s.regs.bad.w0 = false → n = 3 →
      s.regs.bad.w1 = false → s.regs.bad.w2 = true →
      exec (.endFrame r) s = .next { s with regs := { s.regs with res := .checksum, idx := 2#2 } }) ∧
    (s.regs.res = .none → s.regs.cnt.toNat = 3 * n → s.regs.bad.w0 = false →
      (n = 3 → s.regs.bad.w1 = false ∧ s.regs.bad.w2 = false) →
      exec (.endFrame r) s = .next { s with regs := { s.regs with res := .ok, idx := 0#2 } })

/-- 41_validator.md R83, 60_exceptions.md R106: the frame of END, IDLE and GEN, which store nothing: every
cell and every register but RES and IDX (of END) stays; only GEN moves the level on g_in. -/
def Obligations.EndIdleGenFrame : Prop :=
  (∀ (r : Byte) (s t : State), exec (.endFrame r) s = .next t →
    (∀ o : Fin 9, frameCell t.regs o = frameCell s.regs o) ∧
    t.regs.acc = s.regs.acc ∧ t.regs.cnt = s.regs.cnt ∧ t.regs.exp = s.regs.exp ∧
    t.regs.val = s.regs.val ∧ t.regs.chk = s.regs.chk ∧ t.regs.bad = s.regs.bad ∧
    t.gIn = s.gIn ∧ t.inputs = s.inputs) ∧
  (∀ (r : Byte) (s t : State), exec (.idle r) s = .next t →
    t.regs = s.regs ∧ (∀ o : Fin 9, frameCell t.regs o = frameCell s.regs o) ∧
    t.gIn = s.gIn ∧ t.inputs = s.inputs) ∧
  (∀ (hi lo : Byte) (s t : State), exec (.gen hi lo) s = .next t →
    t.regs = s.regs ∧ (∀ o : Fin 9, frameCell t.regs o = frameCell s.regs o) ∧ t.inputs = s.inputs)

/-! ## Exceptions -/

/-- 60_exceptions.md R104: a wrong byte count is FRAMING whatever the flags say, never CHECKSUM or OK. -/
def Obligations.FramingBeforeChecksum : Prop :=
  ∀ (r : Byte) (s : State) (flags : PerWord Bool), s.regs.res = .none →
    s.regs.cnt.toNat ≠ 3 * s.regs.exp.words →
    ∃ t, exec (.endFrame r) { s with regs := { s.regs with bad := flags } } = .next t ∧
      t.regs.res = .framing ∧ t.regs.idx = 0#2

/-- 60_exceptions.md R105: with the right byte count the lowest wrong word is reported, and nothing tells
what the flags of later words were. -/
def Obligations.LowestWrongWordIsReported : Prop :=
  ∀ (r : Byte) (s : State) (k : Fin 3), s.regs.res = .none →
    s.regs.cnt.toNat = 3 * s.regs.exp.words → k.val < s.regs.exp.words →
    s.regs.bad.get k = true → (∀ j : Fin 3, j < k → s.regs.bad.get j = false) →
    ∃ t, exec (.endFrame r) s = .next t ∧ t.regs.res = .checksum ∧ t.regs.idx.toNat = k.val ∧
      ports t.regs = ⟨2#2, BitVec.ofNat 2 k.val, 0#2, ⟨0#16, 0#16, 0#16⟩, ⟨0#8, 0#8, 0#8⟩⟩

/-- 60_exceptions.md R106: raising writes RES and IDX and nothing else; after it the ports show the code and
the index and no word, and the block is done. -/
def Obligations.RaisingWritesOnlyResAndIdx : Prop :=
  ∀ r : Registers,
    raise .framing r = { r with res := .framing, idx := 0#2 } ∧
    (∀ k : Fin 3, raise (.checksum k) r = { r with res := .checksum, idx := BitVec.ofNat 2 k.val }) ∧
    ports (raise .framing r) = ⟨3#2, 0#2, 0#2, ⟨0#16, 0#16, 0#16⟩, ⟨0#8, 0#8, 0#8⟩⟩ ∧
    (∀ k : Fin 3, ports (raise (.checksum k) r) =
      ⟨2#2, BitVec.ofNat 2 k.val, 0#2, ⟨0#16, 0#16, 0#16⟩, ⟨0#8, 0#8, 0#8⟩⟩) ∧
    (∀ e : Exc, (raise e r).done = true ∧ ∀ o : Fin 9, frameCell (raise e r) o = frameCell r o)

/-- 60_exceptions.md R100: which operation raises which exception, and exactly when. -/
def Obligations.OnlyEndRaises : Prop :=
  ∀ (i : Instr) (s t : State), exec i s = .next t → s.regs.res = .none →
    (t.regs.res = .framing ↔ (∃ r, i = .endFrame r) ∧ s.regs.cnt.toNat ≠ 3 * s.regs.exp.words) ∧
    (∀ k : Fin 3, (t.regs.res = .checksum ∧ t.regs.idx.toNat = k.val) ↔
      (∃ r, i = .endFrame r) ∧ s.regs.cnt.toNat = 3 * s.regs.exp.words ∧ k.val < s.regs.exp.words ∧
      s.regs.bad.get k = true ∧ ∀ j : Fin 3, j < k → s.regs.bad.get j = false) ∧
    (t.regs.res = .framing → t.regs.idx = 0#2)

/-- 41_validator.md R87: once a verdict is latched, no sequence of PUSH, END, IDLE and GEN changes a
register or a port of the validator. -/
def Obligations.DoneIsSticky : Prop :=
  ∀ (es : List Event) (s : State), s.regs.res ≠ .none →
    (∀ e ∈ es, e.starts? = none) →
    ∃ t, feed es s = .next t ∧ t.regs = s.regs ∧ ports t.regs = ports s.regs

/-- 60_exceptions.md R107, 10_state.md R17: what leaves a latched verdict is a reset step or BEGIN, and it
clears RES and IDX with everything else. -/
def Obligations.OnlyBeginOrResetLeavesDone : Prop :=
  ∀ (s t : State), s.regs.res ≠ .none → step s = .next t → t.regs ≠ s.regs →
    ∃ e rest k, s.inputs = e :: rest ∧ e.starts? = some k ∧
      t.regs = { State.reset.regs with exp := k }

/-! ## Ports -/

/-- 41_validator.md R88: the result ports of any registers. -/
def Obligations.ResultPortsAreGated : Prop :=
  ∀ (r : Registers) (n : Nat), n = (if r.exp = .measurement then 3 else 1) →
    (ports r).stRes = (match r.res with | .none => 0#2 | .ok => 1#2 | .checksum => 2#2 | .framing => 3#2) ∧
    (ports r).stIdx = r.idx ∧
    (ports r).wNum = (if r.res = .ok then BitVec.ofNat 2 n else 0#2) ∧
    ∀ k : Fin 3,
      (ports r).wVal.get k = (if r.res = .ok ∧ k.val < n then r.val.get k else 0x0000#16) ∧
      (ports r).wChk.get k = (if r.res = .ok ∧ k.val < n then r.chk.get k else 0x00#8)

/-- 41_validator.md R89, in every state that meets the invariant of R21 (`EveryStepKeepsInvariant`): under
st_res = 1 every shown word is valid. -/
def Obligations.ShownWordsAreValid : Prop :=
  ∀ r : Registers, RegInv r → (ports r).stRes = 1#2 →
    ∀ k : Fin 3, k.val < (ports r).wNum.toNat →
      (ports r).wChk.get k =
        crc8 (((ports r).wVal.get k).extractLsb' 8 8) (((ports r).wVal.get k).extractLsb' 0 8)

/-- 60_exceptions.md R108: the upper bit of st_res is 1 exactly under an error verdict. -/
def Obligations.ErrorLineIsUpperBitOfRes : Prop :=
  ∀ r : Registers, (ports r).stRes.getLsbD 1 = true ↔ (r.res = .checksum ∨ r.res = .framing)

/-! ## The step -/

/-- 41_validator.md R79: the next edge with rst = 1 is a reset step; with rst = 0 its op and d select
exactly one operation, and the step is that operation's; and in every state, whatever is pending, the step has
a next state: no fault, no stall, no refusal. -/
def Obligations.StepIsTotalAndSelectsOneOperation : Prop :=
  (∀ s : State, ∃ t, step s = .next t) ∧
  ∀ (w : CmdWord) (rest : List Event) (s : State),
    (s.inputs = .edge true w :: rest →
      step s = .next { s with regs := State.reset.regs, inputs := rest }) ∧
    (s.inputs = .edge false w :: rest →
      (w.extractLsb' 8 2 = 0b00#2 → step s = exec (.idle (w.extractLsb' 0 8)) { s with inputs := rest }) ∧
      (w.extractLsb' 8 2 = 0b01#2 → step s = exec (.beginFrame (w.extractLsb' 1 7)
        (if w.getLsbD 0 then .measurement else .status)) { s with inputs := rest }) ∧
      (w.extractLsb' 8 2 = 0b10#2 → step s = exec (.push (w.extractLsb' 0 8)) { s with inputs := rest }) ∧
      (w.extractLsb' 8 2 = 0b11#2 → step s = exec (.endFrame (w.extractLsb' 0 8)) { s with inputs := rest }))

/-- A step runs the decoded instruction, on either port; the event is taken off the list and nothing else
is added around `exec`. With no event pending a step changes nothing: the model's choice, log entry 2. -/
def Obligations.StepRunsTheDecodedInstruction : Prop :=
  (∀ (i : Instr) (p : PortWord) (rest : List Event) (s : State), decode p = i →
    s.inputs = Event.ofPortWord p :: rest → step s = exec i { s with inputs := rest }) ∧
  (∀ (i : Instr) (rest : List Event) (s : State),
    s.inputs = Event.ofInstr i :: rest → step s = exec i { s with inputs := rest }) ∧
  (∀ s : State, s.inputs = [] → step s = .next s)

/-- The host's interface: the word placed is the one the very next step runs (log entries 5 and 6, the
model's choice). -/
def Obligations.FetchedWordRunsNext : Prop :=
  ∀ (nbits w : Nat) (i : Instr) (s : State), decodeTableWord nbits w = some i →
    step (s.withFetchWord nbits w) = exec i s

/-! ## Invariant and whole runs -/

/-- The invariant of 10_state.md R21 holds at reset. -/
def Obligations.ResetMeetsInvariant : Prop :=
  RegInv State.reset.regs

/-- 10_state.md R21: every step keeps the invariant, from every state that meets it, whatever is pending. -/
def Obligations.EveryStepKeepsInvariant : Prop :=
  ∀ s t : State, RegInv s.regs → step s = .next t → RegInv t.regs

/-- 10_state.md R21: it holds in every state reachable from reset by any sequence of commands and resets. -/
def Obligations.ReachableStatesMeetInvariant : Prop :=
  ∀ es : List Event, ∃ t, feed es State.reset = .next t ∧ RegInv t.regs

/-- 41_validator.md R94: the registers during a frame run, after any number of pushes with IDLEs (and GENs)
between them. -/
def Obligations.FrameRunProgress : Prop :=
  ∀ (first : Event) (body : List Event) (sel : FrameKind) (s : State),
    first.starts? = some sel → (∀ e ∈ body, e.inside = true) →
    ∃ t, feed (first :: body) s = .next t ∧
      t.regs.res = .none ∧ t.regs.exp = sel ∧
      t.regs.cnt.toNat = min (pushed body).length 15 ∧
      (∀ o : Fin 9, frameCell t.regs o = (pushed body).getD o.val 0x00#8) ∧
      (∀ k : Fin 3, 3 * k.val + 3 ≤ (pushed body).length →
        t.regs.bad.get k =
          ((pushed body).getD (3 * k.val + 2) 0#8 !=
            crc8 ((pushed body).getD (3 * k.val) 0#8) ((pushed body).getD (3 * k.val + 1) 0#8)))

/-- 41_validator.md R76: `decodeFrame` is the rule's function, read word by word from the bytes. -/
def Obligations.DecodeFunctionRule : Prop :=
  ∀ (raw : List Byte) (n : Nat), n = 1 ∨ n = 3 →
    (raw.length ≠ 3 * n → decodeFrame raw n = .framing) ∧
    (∀ k, raw.length = 3 * n → k < n →
      crc8 (raw.getD (3 * k) 0#8) (raw.getD (3 * k + 1) 0#8) ≠ raw.getD (3 * k + 2) 0#8 →
      (∀ j, j < k →
        crc8 (raw.getD (3 * j) 0#8) (raw.getD (3 * j + 1) 0#8) = raw.getD (3 * j + 2) 0#8) →
      decodeFrame raw n = .checksum k) ∧
    (raw.length = 3 * n →
      (∀ k, k < n →
        crc8 (raw.getD (3 * k) 0#8) (raw.getD (3 * k + 1) 0#8) = raw.getD (3 * k + 2) 0#8) →
      decodeFrame raw n = .ok ((List.range n).map fun k =>
        ⟨raw.getD (3 * k) 0#8 ++ raw.getD (3 * k + 1) 0#8, raw.getD (3 * k + 2) 0#8⟩))

/-- 41_validator.md R77: the image of a result on the ports. -/
def Obligations.ResultImageOnPorts : Prop :=
  (∀ n : Nat, encResult n .framing = ⟨3#2, 0#2, 0#2, ⟨0#16, 0#16, 0#16⟩, ⟨0#8, 0#8, 0#8⟩⟩) ∧
  (∀ (n : Nat) (k : Fin 3), encResult n (.checksum k.val) =
    ⟨2#2, BitVec.ofNat 2 k.val, 0#2, ⟨0#16, 0#16, 0#16⟩, ⟨0#8, 0#8, 0#8⟩⟩) ∧
  (∀ (n : Nat) (words : List FrameWord), n = 1 ∨ n = 3 → words.length = n →
    (encResult n (.ok words)).stRes = 1#2 ∧ (encResult n (.ok words)).stIdx = 0#2 ∧
    (encResult n (.ok words)).wNum.toNat = n ∧
    ∀ k : Fin 3,
      (∀ w, words[k.val]? = some w →
        (encResult n (.ok words)).wVal.get k = w.value ∧ (encResult n (.ok words)).wChk.get k = w.check) ∧
      (n ≤ k.val →
        (encResult n (.ok words)).wVal.get k = 0x0000#16 ∧ (encResult n (.ok words)).wChk.get k = 0x00#8))

/-- 41_validator.md R96: the machine computes the function. At the end of every frame run, from every state
and with anything still to come, RES, IDX and all result ports are `enc(decode(raw, n), n)`. -/
def Obligations.FrameRunComputesDecode : Prop :=
  ∀ (first last : Event) (body rest : List Event) (sel : FrameKind) (s : State),
    first.starts? = some sel → (∀ e ∈ body, e.inside = true) → last.ends = true →
    s.inputs = first :: body ++ last :: rest →
    ∃ t, run (body.length + 2) s = .next t ∧ t.inputs = rest ∧
      ports t.regs = encResult sel.words (decodeFrame (pushed body) sel.words) ∧
      t.regs.res.code = (encResult sel.words (decodeFrame (pushed body) sel.words)).stRes ∧
      t.regs.idx = (encResult sel.words (decodeFrame (pushed body) sel.words)).stIdx

/-- 41_validator.md R97: the machine with an unbounded byte count gives the same RES, IDX and ports after
every sequence of events from reset; CNT is its count cut off at 15. -/
def Obligations.UnboundedCounterAgrees : Prop :=
  ∀ es : List Event, ∃ t, feed es State.reset = .next t ∧
    (WideRegisters.runAll ⟨Registers.reset, 0⟩ es).regs.res = t.regs.res ∧
    (WideRegisters.runAll ⟨Registers.reset, 0⟩ es).regs.idx = t.regs.idx ∧
    ports (WideRegisters.runAll ⟨Registers.reset, 0⟩ es).regs = ports t.regs ∧
    t.regs.cnt.toNat = min (WideRegisters.runAll ⟨Registers.reset, 0⟩ es).count 15

/-- 41_validator.md R97 as a step: every pin event, from related states that no run need reach, keeps the
relation between the machine with an unbounded byte count and this one. -/
def Obligations.EveryEventKeepsCounterAgreement : Prop :=
  ∀ (w : WideRegisters) (e : Event) (rest : List Event) (s : State),
    s.inputs = e :: rest → w.agrees s.regs →
    ∃ t, step s = .next t ∧ t.inputs = rest ∧ (w.sample e).agrees t.regs

/-- 41_validator.md R80 and 40_crc8.md R64: IDLE and GEN, wherever they stand in a sequence, have no part
in what the registers become. -/
def Obligations.IdleAndGenHaveNoPart : Prop :=
  ∀ (es : List Event) (s : State), ∃ t t', feed es s = .next t ∧ feed (acting es) s = .next t' ∧
    t.regs = t'.regs

/-- 41_validator.md R98 (a): three valid words go through a measurement frame, and one through a status
frame, unchanged and in order. -/
def Obligations.ValidFrameRoundTrip : Prop :=
  (∀ (v0 v1 v2 : Value) (c0 c1 c2 : Byte) (s : State),
    crc8 (hiByte v0) (loByte v0) = c0 → crc8 (hiByte v1) (loByte v1) = c1 →
    crc8 (hiByte v2) (loByte v2) = c2 →
    ∃ t, feed ((pseudoFrame .measurement
        [hiByte v0, loByte v0, c0, hiByte v1, loByte v1, c1, hiByte v2, loByte v2, c2]).map
        Event.ofInstr) s = .next t ∧
      ports t.regs = ⟨1#2, 0#2, 3#2, ⟨v0, v1, v2⟩, ⟨c0, c1, c2⟩⟩) ∧
  (∀ (v0 : Value) (c0 : Byte) (s : State), crc8 (hiByte v0) (loByte v0) = c0 →
    ∃ t, feed ((pseudoFrame .status [hiByte v0, loByte v0, c0]).map Event.ofInstr) s = .next t ∧
      ports t.regs = ⟨1#2, 0#2, 1#2, ⟨v0, 0#16, 0#16⟩, ⟨c0, 0#8, 0#8⟩⟩)

/-- 41_validator.md R98 (b): one byte of a valid measurement frame replaced by another gives CHECKSUM with
the index of its word, and no word is shown. -/
def Obligations.CorruptedByteNamesItsWord : Prop :=
  ∀ (raw : List Byte) (o : Nat) (b : Byte) (s : State), raw.length = 9 →
    (∀ k, k < 3 → crc8 (raw.getD (3 * k) 0#8) (raw.getD (3 * k + 1) 0#8) = raw.getD (3 * k + 2) 0#8) →
    o < 9 → b ≠ raw.getD o 0#8 →
    ∃ t, feed ((pseudoFrame .measurement (raw.set o b)).map Event.ofInstr) s = .next t ∧
      ports t.regs = ⟨2#2, BitVec.ofNat 2 (o / 3), 0#2, ⟨0#16, 0#16, 0#16⟩, ⟨0#8, 0#8, 0#8⟩⟩

/-- 41_validator.md R98 (c), 20_memory.md R34: a byte count other than 9 under BEGIN M, or other than 3 under
BEGIN S, gives FRAMING, with no word shown. -/
def Obligations.WrongLengthIsFraming : Prop :=
  ∀ (kind : FrameKind) (raw : List Byte) (s : State),
    raw.length ≠ (if kind = .measurement then 9 else 3) →
    ∃ t, feed ((pseudoFrame kind raw).map Event.ofInstr) s = .next t ∧
      ports t.regs = ⟨3#2, 0#2, 0#2, ⟨0#16, 0#16, 0#16⟩, ⟨0#8, 0#8, 0#8⟩⟩

/-- 30_encoding.md R56: what FRAME expands to, for any number of bytes; and it is the block-level spelling
of `decode_frame` (M) and of the 1-word path (S): the ports after it are the image of that result. -/
def Obligations.PseudoFrameIsDecodeFrame : Prop :=
  (∀ raw : List Byte, pseudoFrame .measurement raw =
    .beginFrame 0#7 .measurement :: (raw.map Instr.push ++ [Instr.endFrame 0#8])) ∧
  (∀ raw : List Byte, pseudoFrame .status raw =
    .beginFrame 0#7 .status :: (raw.map Instr.push ++ [Instr.endFrame 0#8])) ∧
  (∀ (raw : List Byte) (s : State), ∃ t,
    feed ((pseudoFrame .measurement raw).map Event.ofInstr) s = .next t ∧
      ports t.regs = encResult 3 (decodeFrame raw 3)) ∧
  (∀ (raw : List Byte) (s : State), ∃ t,
    feed ((pseudoFrame .status raw).map Event.ofInstr) s = .next t ∧
      ports t.regs = encResult 1 (decodeFrame raw 1))
end

