-- ==== Sys2Proof/Laws/Crc.lean ====
section
/-! SUPPORT. The spec lemmas of the CRC functions: their equations, and one bit iteration bit by bit. -/

namespace Sys2Proof.Machine

theorem crcIter_zero (a : Byte) : crcIter a 0 = a := rfl

theorem crcIter_succ (a : Byte) (i : Nat) : crcIter a (i + 1) = crcBitStep (crcIter a i) := rfl

theorem crcByteStep_eq (a b : Byte) : crcByteStep a b = crcIter (a ^^^ b) 8 := rfl

theorem crc8_eq (hi lo : Byte) : crc8 hi lo = crcByteStep (crcByteStep 0xFF#8 hi) lo := rfl

/-- A bit of the result is the bit below it, and the feedback bit where the polynomial has a tap. -/
theorem crcBitStep_getLsbD (a : Byte) (i : Nat) :
    (crcBitStep a).getLsbD i =
      ((a <<< 1).getLsbD i ^^ (a.getLsbD 7 && Config.crcPoly.getLsbD i)) := by
  unfold crcBitStep
  cases a.getLsbD 7 <;> simp

end Sys2Proof.Machine
end

