-- ==== Sys2Proof/Laws/Decode.lean ====
section
/-! SUPPORT. The fields of a command word put together from an operation code and an operand byte. -/

namespace Sys2Proof

@[simp] theorem opField_append (op : BitVec 2) (d : Byte) : opField (op ++ d) = op := by
  unfold opField
  ext i hlt
  rw [BitVec.getElem_extractLsb']
  refine (BitVec.getLsbD_append (x := op) (y := d)).trans ?_
  simp [BitVec.getLsbD_eq_getElem, hlt]

@[simp] theorem operandField_append (op : BitVec 2) (d : Byte) : operandField (op ++ d) = d := by
  unfold operandField
  ext i hlt
  rw [BitVec.getElem_extractLsb']
  refine (BitVec.getLsbD_append (x := op) (y := d)).trans ?_
  simp [BitVec.getLsbD_eq_getElem, hlt]

@[simp] theorem FrameKind.ofBit_bit (k : FrameKind) : FrameKind.ofBit k.bit = k := by
  cases k <;> rfl

@[simp] theorem FrameKind.bit_ofBit (b : BitVec 1) : (FrameKind.ofBit b).bit = b := by
  revert b; decide

/-- A table word that the host gives is a command word, a generator input, or rejected. -/
theorem decodeTableWord_eq (nbits w : Nat) : decodeTableWord nbits w = (tableWord nbits w).map decode := rfl

end Sys2Proof
end

