-- ==== Sys2Proof/Laws/State.lean ====
section
/-! SUPPORT. One lemma for each field and each register write, and the reads of an indexed register file
after a write. -/

namespace Sys2Proof

@[simp] theorem PerWord.get_set_same {α : Type} (p : PerWord α) (k : Fin 3) (a : α) :
    (p.set k a).get k = a := by
  match k with
  | 0 | 1 | 2 => rfl

theorem PerWord.get_set_other {α : Type} (p : PerWord α) {j k : Fin 3} (a : α) (h : j ≠ k) :
    (p.set k a).get j = p.get j := by
  match j, k with
  | 0, 0 | 1, 1 | 2, 2 => exact absurd rfl h
  | 0, 1 | 0, 2 | 1, 0 | 1, 2 | 2, 0 | 2, 1 => rfl

theorem PerWord.get_set {α : Type} (p : PerWord α) (j k : Fin 3) (a : α) :
    (p.set k a).get j = if j = k then a else p.get j := by
  by_cases h : j = k
  · subst h; simp
  · simp [h, PerWord.get_set_other p a h]

theorem PerWord.ext_get {α : Type} {p q : PerWord α} (h : ∀ k, p.get k = q.get k) : p = q := by
  cases p; cases q
  congr
  · exact h 0
  · exact h 1
  · exact h 2

namespace Machine

@[simp] theorem Registers.setAcc_acc (r : Registers) (x : Byte) : (r.setAcc x).acc = x := rfl
@[simp] theorem Registers.setAcc_cnt (r : Registers) (x : Byte) : (r.setAcc x).cnt = r.cnt := rfl
@[simp] theorem Registers.setAcc_exp (r : Registers) (x : Byte) : (r.setAcc x).exp = r.exp := rfl
@[simp] theorem Registers.setAcc_val (r : Registers) (x : Byte) : (r.setAcc x).val = r.val := rfl
@[simp] theorem Registers.setAcc_chk (r : Registers) (x : Byte) : (r.setAcc x).chk = r.chk := rfl
@[simp] theorem Registers.setAcc_bad (r : Registers) (x : Byte) : (r.setAcc x).bad = r.bad := rfl
@[simp] theorem Registers.setAcc_res (r : Registers) (x : Byte) : (r.setAcc x).res = r.res := rfl
@[simp] theorem Registers.setAcc_idx (r : Registers) (x : Byte) : (r.setAcc x).idx = r.idx := rfl
@[simp] theorem Registers.setCnt_acc (r : Registers) (x : BitVec 4) : (r.setCnt x).acc = r.acc := rfl
@[simp] theorem Registers.setCnt_cnt (r : Registers) (x : BitVec 4) : (r.setCnt x).cnt = x := rfl
@[simp] theorem Registers.setCnt_exp (r : Registers) (x : BitVec 4) : (r.setCnt x).exp = r.exp := rfl
@[simp] theorem Registers.setCnt_val (r : Registers) (x : BitVec 4) : (r.setCnt x).val = r.val := rfl
@[simp] theorem Registers.setCnt_chk (r : Registers) (x : BitVec 4) : (r.setCnt x).chk = r.chk := rfl
@[simp] theorem Registers.setCnt_bad (r : Registers) (x : BitVec 4) : (r.setCnt x).bad = r.bad := rfl
@[simp] theorem Registers.setCnt_res (r : Registers) (x : BitVec 4) : (r.setCnt x).res = r.res := rfl
@[simp] theorem Registers.setCnt_idx (r : Registers) (x : BitVec 4) : (r.setCnt x).idx = r.idx := rfl
@[simp] theorem Registers.setExp_acc (r : Registers) (x : FrameKind) : (r.setExp x).acc = r.acc := rfl
@[simp] theorem Registers.setExp_cnt (r : Registers) (x : FrameKind) : (r.setExp x).cnt = r.cnt := rfl
@[simp] theorem Registers.setExp_exp (r : Registers) (x : FrameKind) : (r.setExp x).exp = x := rfl
@[simp] theorem Registers.setExp_val (r : Registers) (x : FrameKind) : (r.setExp x).val = r.val := rfl
@[simp] theorem Registers.setExp_chk (r : Registers) (x : FrameKind) : (r.setExp x).chk = r.chk := rfl
@[simp] theorem Registers.setExp_bad (r : Registers) (x : FrameKind) : (r.setExp x).bad = r.bad := rfl
@[simp] theorem Registers.setExp_res (r : Registers) (x : FrameKind) : (r.setExp x).res = r.res := rfl
@[simp] theorem Registers.setExp_idx (r : Registers) (x : FrameKind) : (r.setExp x).idx = r.idx := rfl
@[simp] theorem Registers.setVal_acc (r : Registers) (x : PerWord Value) : (r.setVal x).acc = r.acc := rfl
@[simp] theorem Registers.setVal_cnt (r : Registers) (x : PerWord Value) : (r.setVal x).cnt = r.cnt := rfl
@[simp] theorem Registers.setVal_exp (r : Registers) (x : PerWord Value) : (r.setVal x).exp = r.exp := rfl
@[simp] theorem Registers.setVal_val (r : Registers) (x : PerWord Value) : (r.setVal x).val = x := rfl
@[simp] theorem Registers.setVal_chk (r : Registers) (x : PerWord Value) : (r.setVal x).chk = r.chk := rfl
@[simp] theorem Registers.setVal_bad (r : Registers) (x : PerWord Value) : (r.setVal x).bad = r.bad := rfl
@[simp] theorem Registers.setVal_res (r : Registers) (x : PerWord Value) : (r.setVal x).res = r.res := rfl
@[simp] theorem Registers.setVal_idx (r : Registers) (x : PerWord Value) : (r.setVal x).idx = r.idx := rfl
@[simp] theorem Registers.setChk_acc (r : Registers) (x : PerWord Byte) : (r.setChk x).acc = r.acc := rfl
@[simp] theorem Registers.setChk_cnt (r : Registers) (x : PerWord Byte) : (r.setChk x).cnt = r.cnt := rfl
@[simp] theorem Registers.setChk_exp (r : Registers) (x : PerWord Byte) : (r.setChk x).exp = r.exp := rfl
@[simp] theorem Registers.setChk_val (r : Registers) (x : PerWord Byte) : (r.setChk x).val = r.val := rfl
@[simp] theorem Registers.setChk_chk (r : Registers) (x : PerWord Byte) : (r.setChk x).chk = x := rfl
@[simp] theorem Registers.setChk_bad (r : Registers) (x : PerWord Byte) : (r.setChk x).bad = r.bad := rfl
@[simp] theorem Registers.setChk_res (r : Registers) (x : PerWord Byte) : (r.setChk x).res = r.res := rfl
@[simp] theorem Registers.setChk_idx (r : Registers) (x : PerWord Byte) : (r.setChk x).idx = r.idx := rfl
@[simp] theorem Registers.setBad_acc (r : Registers) (x : PerWord Bool) : (r.setBad x).acc = r.acc := rfl
@[simp] theorem Registers.setBad_cnt (r : Registers) (x : PerWord Bool) : (r.setBad x).cnt = r.cnt := rfl
@[simp] theorem Registers.setBad_exp (r : Registers) (x : PerWord Bool) : (r.setBad x).exp = r.exp := rfl
@[simp] theorem Registers.setBad_val (r : Registers) (x : PerWord Bool) : (r.setBad x).val = r.val := rfl
@[simp] theorem Registers.setBad_chk (r : Registers) (x : PerWord Bool) : (r.setBad x).chk = r.chk := rfl
@[simp] theorem Registers.setBad_bad (r : Registers) (x : PerWord Bool) : (r.setBad x).bad = x := rfl
@[simp] theorem Registers.setBad_res (r : Registers) (x : PerWord Bool) : (r.setBad x).res = r.res := rfl
@[simp] theorem Registers.setBad_idx (r : Registers) (x : PerWord Bool) : (r.setBad x).idx = r.idx := rfl
@[simp] theorem Registers.setRes_acc (r : Registers) (x : Verdict) : (r.setRes x).acc = r.acc := rfl
@[simp] theorem Registers.setRes_cnt (r : Registers) (x : Verdict) : (r.setRes x).cnt = r.cnt := rfl
@[simp] theorem Registers.setRes_exp (r : Registers) (x : Verdict) : (r.setRes x).exp = r.exp := rfl
@[simp] theorem Registers.setRes_val (r : Registers) (x : Verdict) : (r.setRes x).val = r.val := rfl
@[simp] theorem Registers.setRes_chk (r : Registers) (x : Verdict) : (r.setRes x).chk = r.chk := rfl
@[simp] theorem Registers.setRes_bad (r : Registers) (x : Verdict) : (r.setRes x).bad = r.bad := rfl
@[simp] theorem Registers.setRes_res (r : Registers) (x : Verdict) : (r.setRes x).res = x := rfl
@[simp] theorem Registers.setRes_idx (r : Registers) (x : Verdict) : (r.setRes x).idx = r.idx := rfl
@[simp] theorem Registers.setIdx_acc (r : Registers) (x : BitVec 2) : (r.setIdx x).acc = r.acc := rfl
@[simp] theorem Registers.setIdx_cnt (r : Registers) (x : BitVec 2) : (r.setIdx x).cnt = r.cnt := rfl
@[simp] theorem Registers.setIdx_exp (r : Registers) (x : BitVec 2) : (r.setIdx x).exp = r.exp := rfl
@[simp] theorem Registers.setIdx_val (r : Registers) (x : BitVec 2) : (r.setIdx x).val = r.val := rfl
@[simp] theorem Registers.setIdx_chk (r : Registers) (x : BitVec 2) : (r.setIdx x).chk = r.chk := rfl
@[simp] theorem Registers.setIdx_bad (r : Registers) (x : BitVec 2) : (r.setIdx x).bad = r.bad := rfl
@[simp] theorem Registers.setIdx_res (r : Registers) (x : BitVec 2) : (r.setIdx x).res = r.res := rfl
@[simp] theorem Registers.setIdx_idx (r : Registers) (x : BitVec 2) : (r.setIdx x).idx = x := rfl

@[simp] theorem State.setRegs_regs (s : State) (x : Registers) : (s.setRegs x).regs = x := rfl
@[simp] theorem State.setRegs_gIn (s : State) (x : Registers) : (s.setRegs x).gIn = s.gIn := rfl
@[simp] theorem State.setRegs_inputs (s : State) (x : Registers) : (s.setRegs x).inputs = s.inputs := rfl
@[simp] theorem State.setGIn_regs (s : State) (x : Value) : (s.setGIn x).regs = s.regs := rfl
@[simp] theorem State.setGIn_gIn (s : State) (x : Value) : (s.setGIn x).gIn = x := rfl
@[simp] theorem State.setGIn_inputs (s : State) (x : Value) : (s.setGIn x).inputs = s.inputs := rfl
@[simp] theorem State.setInputs_regs (s : State) (x : List Event) : (s.setInputs x).regs = s.regs := rfl
@[simp] theorem State.setInputs_gIn (s : State) (x : List Event) : (s.setInputs x).gIn = s.gIn := rfl
@[simp] theorem State.setInputs_inputs (s : State) (x : List Event) : (s.setInputs x).inputs = x := rfl

/-- Putting back the registers a state already has changes nothing. -/
@[simp] theorem State.setRegs_self (s : State) : s.setRegs s.regs = s := rfl

@[simp] theorem State.setRegs_setRegs (s : State) (a b : Registers) : (s.setRegs a).setRegs b = s.setRegs b := rfl

@[simp] theorem State.setInputs_setInputs (s : State) (a b : List Event) :
    (s.setInputs a).setInputs b = s.setInputs b := rfl

end Machine

end Sys2Proof
end

