-- ==== Sys2Proof/Laws/Ops.lean ====
section
/-! SUPPORT. One spec lemma for each shared operation over the registers: what it gives, said once. -/

namespace Sys2Proof.Machine

/-! ## Operand forms -/

@[simp] theorem hiByte_beValue (hi lo : Byte) : hiByte (beValue hi lo) = hi := by
  unfold hiByte beValue
  ext i hlt
  rw [BitVec.getElem_extractLsb']
  refine (BitVec.getLsbD_append (x := hi) (y := lo)).trans ?_
  simp [BitVec.getLsbD_eq_getElem, hlt]

@[simp] theorem loByte_beValue (hi lo : Byte) : loByte (beValue hi lo) = lo := by
  unfold loByte beValue
  ext i hlt
  rw [BitVec.getElem_extractLsb']
  refine (BitVec.getLsbD_append (x := hi) (y := lo)).trans ?_
  simp [BitVec.getLsbD_eq_getElem, hlt]

theorem beValue_hiByte_loByte (x : Value) : beValue (hiByte x) (loByte x) = x := by
  unfold beValue hiByte loByte
  ext i hlt
  simp only [BitVec.getElem_append, BitVec.getElem_extractLsb']
  split
  · next h => simp [BitVec.getLsbD_eq_getElem, hlt]
  · next h =>
    have : 8 + (i - 8) = i := by omega
    simp [this, BitVec.getLsbD_eq_getElem, hlt]

/-- The store address is CNT itself while CNT is below 9, and no cell from 9 on. -/
theorem storeOffset_eq_some {c : BitVec 4} {o : Fin 9} : storeOffset c = some o ↔ c.toNat = o.val := by
  unfold storeOffset
  split
  · next h => simp [Fin.ext_iff]
  · next h => simp; omega

theorem storeOffset_eq_none {c : BitVec 4} : storeOffset c = none ↔ 9 ≤ c.toNat := by
  unfold storeOffset
  split <;> simp <;> omega

theorem nextCnt_toNat (c : BitVec 4) : (nextCnt c).toNat = min (c.toNat + 1) 15 := by
  unfold nextCnt Config.cntMax
  simp only [BitVec.toNat_ofNat]
  omega

theorem posOf_high {o : Fin 9} : posOf o = .high ↔ o.val % 3 = 0 := by revert o; decide

theorem posOf_low {o : Fin 9} : posOf o = .low ↔ o.val % 3 = 1 := by revert o; decide

theorem posOf_check {o : Fin 9} : posOf o = .check ↔ o.val % 3 = 2 := by revert o; decide

theorem wordOf_val (o : Fin 9) : (wordOf o).val = o.val / 3 := rfl

/-- Word and place together name the offset: no two offsets share a cell. -/
theorem offset_ext {o o' : Fin 9} (hw : wordOf o = wordOf o') (hp : posOf o = posOf o') : o = o' := by
  revert o o'; decide

/-! ## The frame store -/

@[simp] theorem frameWrite_acc (o : Fin 9) (b : Byte) (r : Registers) : (frameWrite o b r).acc = r.acc := by
  unfold frameWrite; cases posOf o <;> rfl
@[simp] theorem frameWrite_cnt (o : Fin 9) (b : Byte) (r : Registers) : (frameWrite o b r).cnt = r.cnt := by
  unfold frameWrite; cases posOf o <;> rfl
@[simp] theorem frameWrite_exp (o : Fin 9) (b : Byte) (r : Registers) : (frameWrite o b r).exp = r.exp := by
  unfold frameWrite; cases posOf o <;> rfl
@[simp] theorem frameWrite_bad (o : Fin 9) (b : Byte) (r : Registers) : (frameWrite o b r).bad = r.bad := by
  unfold frameWrite; cases posOf o <;> rfl
@[simp] theorem frameWrite_res (o : Fin 9) (b : Byte) (r : Registers) : (frameWrite o b r).res = r.res := by
  unfold frameWrite; cases posOf o <;> rfl
@[simp] theorem frameWrite_idx (o : Fin 9) (b : Byte) (r : Registers) : (frameWrite o b r).idx = r.idx := by
  unfold frameWrite; cases posOf o <;> rfl

/-- A cell reads as its register's part; only VAL and CHK matter. -/
theorem frameCell_congr {r t : Registers} (hv : t.val = r.val) (hc : t.chk = r.chk) (o : Fin 9) :
    frameCell t o = frameCell r o := by
  unfold frameCell; rw [hv, hc]

/-- Read after write: the written cell holds the byte, every other cell what it held. -/
theorem frameCell_frameWrite (o o' : Fin 9) (b : Byte) (r : Registers) :
    frameCell (frameWrite o b r) o' = if o' = o then b else frameCell r o' := by
  by_cases h : o' = o
  · subst h
    simp only [if_true]
    unfold frameCell frameWrite
    cases posOf o' <;> simp
  · simp only [h, if_false]
    unfold frameCell frameWrite
    by_cases hw : wordOf o' = wordOf o
    · cases hp : posOf o <;> cases hp' : posOf o' <;>
        first
          | exact absurd (offset_ext hw (hp'.trans hp.symm)) h
          | simp [hw]
    · cases posOf o <;> cases posOf o' <;> simp [PerWord.get_set_other _ _ hw]

/-- The cells of word `k`, as the registers hold them. -/
theorem hiByte_val_get (r : Registers) (k : Fin 3) :
    hiByte (r.val.get k) = frameCell r ⟨3 * k.val, by omega⟩ := by
  match k with
  | 0 | 1 | 2 => rfl

theorem loByte_val_get (r : Registers) (k : Fin 3) :
    loByte (r.val.get k) = frameCell r ⟨3 * k.val + 1, by omega⟩ := by
  match k with
  | 0 | 1 | 2 => rfl

theorem chk_get (r : Registers) (k : Fin 3) : r.chk.get k = frameCell r ⟨3 * k.val + 2, by omega⟩ := by
  match k with
  | 0 | 1 | 2 => rfl

/-! ## CRC and flags of one pushed byte -/

@[simp] theorem checkByte_cnt (o : Fin 9) (b : Byte) (r : Registers) : (checkByte o b r).cnt = r.cnt := by
  unfold checkByte; cases posOf o <;> rfl
@[simp] theorem checkByte_exp (o : Fin 9) (b : Byte) (r : Registers) : (checkByte o b r).exp = r.exp := by
  unfold checkByte; cases posOf o <;> rfl
@[simp] theorem checkByte_val (o : Fin 9) (b : Byte) (r : Registers) : (checkByte o b r).val = r.val := by
  unfold checkByte; cases posOf o <;> rfl
@[simp] theorem checkByte_chk (o : Fin 9) (b : Byte) (r : Registers) : (checkByte o b r).chk = r.chk := by
  unfold checkByte; cases posOf o <;> rfl
@[simp] theorem checkByte_res (o : Fin 9) (b : Byte) (r : Registers) : (checkByte o b r).res = r.res := by
  unfold checkByte; cases posOf o <;> rfl
@[simp] theorem checkByte_idx (o : Fin 9) (b : Byte) (r : Registers) : (checkByte o b r).idx = r.idx := by
  unfold checkByte; cases posOf o <;> rfl

theorem checkByte_acc (o : Fin 9) (b : Byte) (r : Registers) :
    (checkByte o b r).acc = match posOf o with
      | .high => crcByteStep 0xFF#8 b
      | .low => crcByteStep r.acc b
      | .check => r.acc := by
  unfold checkByte; cases posOf o <;> rfl

theorem checkByte_bad (o : Fin 9) (b : Byte) (r : Registers) :
    (checkByte o b r).bad = match posOf o with
      | .check => r.bad.set (wordOf o) (b != r.acc)
      | _ => r.bad := by
  unfold checkByte; cases posOf o <;> rfl

/-- Everything a push does while a frame is collected. -/
theorem pushByte_cases (b : Byte) (r : Registers) :
    (∃ o : Fin 9, r.cnt.toNat = o.val ∧
      pushByte b r = (checkByte o b (frameWrite o b r)).setCnt (nextCnt r.cnt)) ∨
    (9 ≤ r.cnt.toNat ∧ pushByte b r = r.setCnt (nextCnt r.cnt)) := by
  unfold pushByte
  cases h : storeOffset r.cnt with
  | some o => exact .inl ⟨o, storeOffset_eq_some.mp h, rfl⟩
  | none => exact .inr ⟨storeOffset_eq_none.mp h, rfl⟩

/-! ## The verdict -/

/-- The reported word is examined, wrong, and the lowest such. -/
theorem firstBad_eq_some {kind : FrameKind} {bad : PerWord Bool} {k : Fin 3} :
    firstBad kind bad = some k ↔
      k.val < kind.words ∧ bad.get k = true ∧ ∀ j : Fin 3, j < k → bad.get j = false := by
  obtain ⟨b0, b1, b2⟩ := bad
  revert b0 b1 b2 k kind
  intro kind
  cases kind <;> decide

theorem firstBad_eq_none {kind : FrameKind} {bad : PerWord Bool} :
    firstBad kind bad = none ↔ ∀ k : Fin 3, k.val < kind.words → bad.get k = false := by
  obtain ⟨b0, b1, b2⟩ := bad
  revert b0 b1 b2 kind
  intro kind
  cases kind <;> decide

/-- Everything END can latch. -/
theorem latchVerdict_cases (r : Registers) :
    (r.cnt.toNat ≠ r.exp.bytes ∧ latchVerdict r = raise .framing r) ∨
    (∃ k, r.cnt.toNat = r.exp.bytes ∧ firstBad r.exp r.bad = some k ∧
      latchVerdict r = raise (.checksum k) r) ∨
    (r.cnt.toNat = r.exp.bytes ∧ firstBad r.exp r.bad = none ∧ latchVerdict r = accept r) := by
  unfold latchVerdict endException
  by_cases h : r.cnt.toNat = r.exp.bytes
  · cases hb : firstBad r.exp r.bad with
    | some k => exact .inr (.inl ⟨k, h, rfl, by simp [h]⟩)
    | none => exact .inr (.inr ⟨h, rfl, by simp [h]⟩)
  · exact .inl ⟨h, by simp [h]⟩

theorem raise_eq (e : Exc) (r : Registers) : raise e r = { r with res := e.code, idx := e.index } := rfl

theorem accept_eq (r : Registers) : accept r = { r with res := .ok, idx := 0#2 } := rfl

theorem startFrame_eq (kind : FrameKind) : startFrame kind = { Registers.reset with exp := kind } := rfl

theorem done_eq_true {r : Registers} : r.done = true ↔ r.res ≠ .none := by
  unfold Registers.done; cases r.res <;> decide

theorem done_eq_false {r : Registers} : r.done = false ↔ r.res = .none := by
  unfold Registers.done; cases r.res <;> decide

end Sys2Proof.Machine
end

