-- ==== Sys2Proof/Laws/PerInstr.lean ====
section
/-! SUPPORT. Statements about every instruction as syntax, one lemma for each constructor. The family
`MatchesRow`: an instruction's word matches exactly its own row of the opcode table (30_encoding.md R49). -/

namespace Sys2Proof.Laws.MatchesRow

/-- The rows that the encoded word matches are one, the row of the instruction's mnemonic. -/
def Statement (i : Instr) : Prop :=
  (opcodeTable.filter fun row => row.matches (encode i)).map OpcodeRow.mnemonic = [i.mnemonic]

/-- Bits 9:8 of a command word decide its row. -/
theorem mask_append (op : BitVec 2) (d : Byte) : (op ++ d).toNat &&& 0x300 = op.toNat * 256 := by
  revert op d; decide +kernel

theorem idle (r : Byte) : Statement (.idle r) := by
  have h := mask_append 0b00#2 r
  simp [Statement, opcodeTable, OpcodeRow.matches, encode, Instr.mnemonic, h]

theorem beginFrame (r : BitVec 7) (sel : FrameKind) : Statement (.beginFrame r sel) := by
  cases sel <;> (unfold Statement; revert r; decide +kernel)

theorem push (b : Byte) : Statement (.push b) := by
  have h := mask_append 0b10#2 b
  simp [Statement, opcodeTable, OpcodeRow.matches, encode, Instr.mnemonic, h]

theorem endFrame (r : Byte) : Statement (.endFrame r) := by
  have h := mask_append 0b11#2 r
  simp [Statement, opcodeTable, OpcodeRow.matches, encode, Instr.mnemonic, h]

theorem gen (hi lo : Byte) : Statement (.gen hi lo) := by
  simp [Statement, opcodeTable, OpcodeRow.matches, encode, Instr.mnemonic]

end Sys2Proof.Laws.MatchesRow
end

