-- ==== Sys2Proof/Laws/Ports.lean ====
section
/-! SUPPORT. The spec lemmas of the result ports and of the function `decodeFrame`. -/

namespace Sys2Proof.Machine

/-- A word is shown under the verdict OK only, and only up to the expected word count. -/
theorem shown_eq_true {r : Registers} {k : Fin 3} : shown r k = true ↔ r.res = .ok ∧ k.val < r.exp.words := by
  simp [shown]

/-- Under any other verdict every word port reads zero. -/
theorem ports_of_not_ok {r : Registers} (h : r.res ≠ .ok) :
    ports r = ⟨r.res.code, r.idx, 0#2, ⟨0#16, 0#16, 0#16⟩, ⟨0#8, 0#8, 0#8⟩⟩ := by
  have hs : ∀ k, shown r k = false := fun k => by simp [shown, h]
  simp [ports, gated, hs, h]

theorem words_cases (k : FrameKind) : k.words = 1 ∨ k.words = 3 := by
  cases k <;> simp [FrameKind.words]

theorem groups_cons (hi lo c : Byte) (rest : List Byte) :
    groups (hi :: lo :: c :: rest) = ⟨beValue hi lo, c⟩ :: groups rest := rfl

theorem examine_cons (k : Nat) (w : FrameWord) (ws : List FrameWord) :
    examine k (w :: ws) = if w.valid then examine (k + 1) ws else some k := rfl

theorem valid_beValue (hi lo c : Byte) : (FrameWord.mk (beValue hi lo) c).valid = (crc8 hi lo == c) := by
  simp [FrameWord.valid]

/-! ## The machine with an unbounded byte count -/

theorem reset_agrees : (⟨Registers.reset, 0⟩ : WideRegisters).agrees Registers.reset := ⟨rfl, rfl⟩

/-- Related machines differ in CNT alone, which no port shows. -/
theorem WideRegisters.agrees_visible {w : WideRegisters} {r : Registers} (h : w.agrees r) :
    w.regs.res = r.res ∧ w.regs.idx = r.idx ∧ w.regs.done = r.done ∧ ports w.regs = ports r := by
  rw [← h.1]; exact ⟨rfl, rfl, rfl, rfl⟩

end Sys2Proof.Machine
end

