-- ==== Sys2Proof/Laws/Step.lean ====
section
/-! SUPPORT. The equations of the meanings, what one pin event can do, and runs of several events. -/

namespace Sys2Proof.Machine

/-! ## Meanings -/

theorem exec_idle (r : Byte) (s : State) : exec (.idle r) s = .next s := rfl

theorem exec_beginFrame (r : BitVec 7) (sel : FrameKind) (s : State) :
    exec (.beginFrame r sel) s = .next (s.setRegs (startFrame sel)) := rfl

theorem exec_push_done {b : Byte} {s : State} (h : s.regs.res ≠ .none) : exec (.push b) s = .next s := by
  simp [exec, execPush, done_eq_true.mpr h]

theorem exec_push_collecting {b : Byte} {s : State} (h : s.regs.res = .none) :
    exec (.push b) s = .next (s.setRegs (pushByte b s.regs)) := by
  simp [exec, execPush, done_eq_false.mpr h]

theorem exec_endFrame_done {r : Byte} {s : State} (h : s.regs.res ≠ .none) : exec (.endFrame r) s = .next s := by
  simp [exec, execEnd, done_eq_true.mpr h]

theorem exec_endFrame_collecting {r : Byte} {s : State} (h : s.regs.res = .none) :
    exec (.endFrame r) s = .next (s.setRegs (latchVerdict s.regs)) := by
  simp [exec, execEnd, done_eq_false.mpr h]

theorem exec_gen (hi lo : Byte) (s : State) : exec (.gen hi lo) s = .next (s.setGIn (beValue hi lo)) := rfl

/-- Everything an operation can do, with its guard. -/
theorem exec_cases {i : Instr} {s t : State} (h : exec i s = .next t) :
    (∃ r, i = .idle r ∧ t = s) ∨
    (∃ r sel, i = .beginFrame r sel ∧ t = s.setRegs (startFrame sel)) ∨
    (∃ b, i = .push b ∧ s.regs.res ≠ .none ∧ t = s) ∨
    (∃ b, i = .push b ∧ s.regs.res = .none ∧ t = s.setRegs (pushByte b s.regs)) ∨
    (∃ r, i = .endFrame r ∧ s.regs.res ≠ .none ∧ t = s) ∨
    (∃ r, i = .endFrame r ∧ s.regs.res = .none ∧ t = s.setRegs (latchVerdict s.regs)) ∨
    (∃ hi lo, i = .gen hi lo ∧ t = s.setGIn (beValue hi lo)) := by
  cases i with
  | idle r => rw [exec_idle] at h; cases h; exact .inl ⟨r, rfl, rfl⟩
  | beginFrame r sel => rw [exec_beginFrame] at h; cases h; exact .inr (.inl ⟨r, sel, rfl, rfl⟩)
  | push b =>
    by_cases hr : s.regs.res = .none
    · rw [exec_push_collecting hr] at h; cases h
      exact .inr (.inr (.inr (.inl ⟨b, rfl, hr, rfl⟩)))
    · rw [exec_push_done hr] at h; cases h; exact .inr (.inr (.inl ⟨b, rfl, hr, rfl⟩))
  | endFrame r =>
    by_cases hr : s.regs.res = .none
    · rw [exec_endFrame_collecting hr] at h; cases h
      exact .inr (.inr (.inr (.inr (.inr (.inl ⟨r, rfl, hr, rfl⟩)))))
    · rw [exec_endFrame_done hr] at h; cases h
      exact .inr (.inr (.inr (.inr (.inl ⟨r, rfl, hr, rfl⟩))))
  | gen hi lo =>
    rw [exec_gen] at h; cases h
    exact .inr (.inr (.inr (.inr (.inr (.inr ⟨hi, lo, rfl, rfl⟩)))))

/-! ## Pin events and steps -/

theorem sampleEvent_reset (w : CmdWord) (s : State) :
    sampleEvent (.edge true w) s = .next (s.setRegs Registers.reset) := rfl

/-- An event that presents an operation executes it. -/
theorem sampleEvent_instr {e : Event} {i : Instr} (h : e.instr? = some i) (s : State) :
    sampleEvent e s = exec i s := by
  match e with
  | .edge true _ => simp [Event.instr?] at h
  | .edge false w => simp only [Event.instr?, Option.some.injEq] at h; subst h; rfl
  | .drive x => simp only [Event.instr?, Option.some.injEq] at h; subst h; rfl

theorem instr?_eq_none {e : Event} : e.instr? = none ↔ ∃ w, e = .edge true w := by
  match e with
  | .edge true w => simp [Event.instr?]
  | .edge false w => simp [Event.instr?]
  | .drive x => simp [Event.instr?]

/-- No operation takes pin events off the list or adds any. -/
theorem exec_inputs {i : Instr} {s t : State} (h : exec i s = .next t) : t.inputs = s.inputs := by
  rcases exec_cases h with ⟨_, _, rfl⟩ | ⟨_, _, _, rfl⟩ | ⟨_, _, _, rfl⟩ | ⟨_, _, _, rfl⟩ |
    ⟨_, _, _, rfl⟩ | ⟨_, _, _, rfl⟩ | ⟨_, _, _, rfl⟩ <;> rfl

theorem sampleEvent_inputs {e : Event} {s t : State} (h : sampleEvent e s = .next t) :
    t.inputs = s.inputs := by
  cases he : e.instr? with
  | none =>
    obtain ⟨w, rfl⟩ := instr?_eq_none.mp he
    rw [sampleEvent_reset] at h; cases h; rfl
  | some i => rw [sampleEvent_instr he] at h; exact exec_inputs h

/-- The event that begins a frame run starts a frame, from every state. -/
theorem sampleEvent_starts {e : Event} {k : FrameKind} (h : e.starts? = some k) (s : State) :
    sampleEvent e s = .next (s.setRegs (startFrame k)) := by
  match e with
  | .edge true w => simp only [Event.starts?, Option.some.injEq] at h; subst h; rfl
  | .edge false w =>
    rw [sampleEvent_instr (i := decode (.v w)) rfl]
    simp only [Event.starts?, Event.instr?] at h
    revert h; generalize decode (.v w) = i; intro h
    cases i with
    | beginFrame r sel => simp only [Option.some.injEq] at h; subst h; rfl
    | idle _ | push _ | endFrame _ | gen _ _ => simp at h
  | .drive x => simp [Event.starts?, Event.instr?, decode, decodeG] at h

/-- What an event does does not depend on the events after it. -/
theorem sampleEvent_setInputs {e : Event} {s t : State} (l : List Event) (h : sampleEvent e s = .next t) :
    sampleEvent e (s.setInputs l) = .next (t.setInputs l) := by
  cases he : e.instr? with
  | none => obtain ⟨w, rfl⟩ := instr?_eq_none.mp he; cases h; rfl
  | some i =>
    rw [sampleEvent_instr he] at h ⊢
    rcases exec_cases h with ⟨_, rfl, rfl⟩ | ⟨_, _, rfl, rfl⟩ | ⟨_, rfl, hr, rfl⟩ | ⟨_, rfl, hr, rfl⟩ |
      ⟨_, rfl, hr, rfl⟩ | ⟨_, rfl, hr, rfl⟩ | ⟨_, _, rfl, rfl⟩
    · rfl
    · rfl
    · exact exec_push_done hr
    · exact exec_push_collecting hr
    · exact exec_endFrame_done hr
    · exact exec_endFrame_collecting hr
    · rfl

theorem step_nil {s : State} (h : s.inputs = []) : step s = .next s := by simp [step, h]

theorem step_cons {s : State} {e : Event} {es : List Event} (h : s.inputs = e :: es) :
    step s = sampleEvent e (s.setInputs es) := by simp [step, h]

/-! ## Runs -/

theorem run_zero (s : State) : run 0 s = .next s := rfl

theorem run_succ_next {n : Nat} {s t : State} (h : step s = .next t) : run (n + 1) s = run n t := by
  have h' : Sys2Proof.core.step s = .next t := h
  simp only [run, Host.Core.run, h']
  rfl

/-- The first of several pin events, then the others. -/
theorem feed_cons {e : Event} {es : List Event} {s t : State} (h : sampleEvent e s = .next t) :
    feed (e :: es) s = feed es t := by
  have hs : sampleEvent e (s.setInputs es) = .next (t.setInputs es) := sampleEvent_setInputs es h
  change run (es.length + 1) (s.given (e :: es)) = run es.length (t.given es)
  exact run_succ_next (by rw [step_cons (e := e) (es := es) rfl]; exact hs)

end Sys2Proof.Machine
end

