-- ==== Sys2Proof/Tests/Slice0.lean ====
section
/-! SUPPORT. Tests. Expected values are the spec's own: its bit patterns (30_encoding.md R49) and its
vectors (95_test_vectors.md V4 to V20). -/

namespace Sys2Proof.Tests

open Sys2Proof.Machine

/-- The registers of a next state. -/
def regsOf : Host.Outcome State Fault Refusal → Option Registers
  | .next t => some t.regs
  | .fault _ => none
  | .refused _ => none

/-- The reset state with a count, a frame kind, flags and a verdict of its own. -/
def given (cnt : BitVec 4) (exp : FrameKind) (bad : PerWord Bool) (res : Verdict) : State :=
  State.reset.setRegs { Registers.reset with cnt := cnt, exp := exp, bad := bad, res := res }

def noFlags : PerWord Bool := ⟨false, false, false⟩

/-! ## Well-formedness: the smoke test -/

theorem test_wf_refuses_idle_bits : (Instr.idle 0xA7#8).canonical = false := by decide
theorem test_wf_refuses_begin_bits : (Instr.beginFrame 0x7F#7 .measurement).canonical = false := by decide
theorem test_wf_refuses_end_bits : (Instr.endFrame 0xA5#8).canonical = false := by decide
theorem test_wf_accepts_canonical_words :
    ([.idle 0#8, .beginFrame 0#7 .status, .beginFrame 0#7 .measurement, .push 0xFF#8, .endFrame 0#8,
      .gen 0xFF#8 0xFF#8] : List Instr).all Instr.canonical = true := by decide
theorem test_wf_number_too_wide :
    Port.v.fits 0x400 = false ∧ Port.g.fits 0x10000 = false ∧ Port.v.fits 0x3FF = true := by decide

/-! ## Decoding: words written out from R49's patterns -/

theorem test_decode_idle : decode (.v 0b0000000000#10) = .idle 0x00#8 := by decide
theorem test_decode_begin_status : decode (.v 0b0100000000#10) = .beginFrame 0#7 .status := by decide
/-- V15 row 4: 0x1FE is a BEGIN S with its ignored bits set. -/
theorem test_decode_begin_ignored : decode (.v 0b0111111110#10) = .beginFrame 0x7F#7 .status := by decide
theorem test_decode_begin_measurement : decode (.v 0b0100000001#10) = .beginFrame 0#7 .measurement := by decide
theorem test_decode_push : decode (.v 0b1000110011#10) = .push 0x33#8 := by decide
theorem test_decode_end : decode (.v 0b1100000000#10) = .endFrame 0x00#8 := by decide
theorem test_decode_gen : decode (.g 0b0001001000110100#16) = .gen 0x12#8 0x34#8 := by decide
theorem test_decode_number_rejected : decodeNumber .v 0x400 = .error .tooWide := by decide
theorem test_table_words :
    decodeTableWord 16 0x2F4 = some (.push 0xF4#8) ∧ decodeTableWord 10 0x101 = some (.beginFrame 0#7 .measurement) ∧
    decodeTableWord 16 0xFF00 = some (.gen 0xFF#8 0x00#8) ∧ decodeTableWord 16 0x10000 = none := by decide

/-! ## CRC: V11, V12, V13, V20 -/

/-- V11. -/
theorem test_crcBitStep :
    [0x00#8, 0x01#8, 0x40#8, 0x7F#8, 0x80#8, 0x98#8, 0xC0#8, 0xFE#8, 0xFF#8, 0x31#8].map crcBitStep =
      [0x00#8, 0x02#8, 0x80#8, 0xFE#8, 0x31#8, 0x01#8, 0xB1#8, 0xCD#8, 0xCF#8, 0x62#8] := by decide +kernel

/-- V13. -/
theorem test_crc8 :
    [0x0000#16, 0x0001#16, 0x00FF#16, 0x00AC#16, 0x0050#16, 0x0100#16, 0x01F4#16, 0x07FF#16, 0x0800#16,
      0x1234#16, 0x5EB9#16, 0x6667#16, 0x8000#16, 0x8006#16, 0xAC00#16, 0xBEEF#16, 0xFF00#16, 0xFFFF#16,
      0x0131#16].map (fun x => crc8 (hiByte x) (loByte x)) =
    [0x81#8, 0xB0#8, 0x2D#8, 0x00#8, 0xFF#8, 0x75#8, 0x33#8, 0x83#8, 0xB6#8, 0x37#8, 0x3C#8, 0xA2#8, 0xA2#8,
      0x04#8, 0xCA#8, 0x92#8, 0x00#8, 0xAC#8, 0x81#8] := by decide +kernel

/-- V20, the table T, one number of sixteen bytes for each printed row. -/
def tableRows : List (BitVec 128) :=
  [0x00316253C4F5A697B988DBEA7D4C1F2E#128,
    0x4372211087B6E5D4FACB98A93E0F5C6D#128,
    0x86B7E4D5427320113F0E5D6CFBCA99A8#128,
    0xC5F4A796013063527C4D1E2FB889DAEB#128] ++
  [0x3D0C5F6EF9C89BAA84B5E6D740712213#128,
    0x7E4F1C2DBA8BD8E9C7F6A59403326150#128,
    0xBB8AD9E87F4E1D2C02336051C6F7A495#128,
    0xF8C99AAB3C0D5E6F4170231285B4E7D6#128] ++
  [0x7A4B1829BE8FDCEDC3F2A19007366554#128,
    0x39085B6AFDCC9FAE80B1E2D344752617#128,
    0xFCCD9EAF38095A6B4574271681B0E3D2#128,
    0xBF8EDDEC7B4A192806376455C2F3A091#128] ++
  [0x4776251483B2E1D0FECF9CAD3A0B5869#128,
    0x04356657C0F1A293BD8CDFEE79481B2A#128,
    0xC1F0A3920534675678491A2BBC8DDEEF#128,
    0x82B3E0D1467724153B0A5968FFCE9DAC#128]

/-- V20: entry `16 r + c` of the printed table. -/
def tableEntry (x : Byte) : Byte :=
  (tableRows.getD (x.toNat / 16) 0#128).extractLsb' (8 * (15 - x.toNat % 16)) 8

theorem test_crc_table : ∀ x : Byte, crcIter x 8 = tableEntry x := by decide +kernel

end Sys2Proof.Tests
end

