-- ==== Sys2Proof/Tests/Steps.lean ====
section
/-! SUPPORT. Tests of one step of each operation and of the frame function, on the spec's own vectors
(95_test_vectors.md V4 to V19, 40_crc8.md R64). -/

namespace Sys2Proof.Tests

open Sys2Proof.Machine

/-! ## One step of each operation: V15 -/

theorem test_idle : regsOf (exec (.idle 0xFF#8) (given 4#4 .status noFlags .ok)) =
    some (given 4#4 .status noFlags .ok).regs := by decide +kernel

/-- V15 row 2. -/
theorem test_begin : regsOf (exec (.beginFrame 0#7 .status) (given 9#4 .measurement ⟨false, true, true⟩ .checksum)) =
    some { Registers.reset with exp := .status } := by decide +kernel

/-- V15 row 10: the second word's CRC starts from 0xFF, not from the ACC of the first. -/
theorem test_push_high :
    regsOf (exec (.push 0x66#8) (State.reset.setRegs { Registers.reset with cnt := 3#4, acc := 0x33#8 })) =
      some { Registers.reset with cnt := 4#4, acc := 0xB1#8, val := ⟨0#16, 0x6600#16, 0#16⟩ } := by decide +kernel

/-- V15 rows 7 and 9: a low byte, and a check byte that differs. -/
theorem test_push_low_and_check :
    regsOf (exec (.push 0xF4#8) (State.reset.setRegs
      { Registers.reset with cnt := 1#4, acc := 0x9D#8, val := ⟨0x0100#16, 0#16, 0#16⟩ })) =
        some { Registers.reset with cnt := 2#4, acc := 0x33#8, val := ⟨0x01F4#16, 0#16, 0#16⟩ } ∧
    regsOf (exec (.push 0x32#8) (State.reset.setRegs
      { Registers.reset with cnt := 2#4, acc := 0x33#8, val := ⟨0x01F4#16, 0#16, 0#16⟩ })) =
        some { Registers.reset with
          cnt := 3#4, acc := 0x33#8, val := ⟨0x01F4#16, 0#16, 0#16⟩, chk := ⟨0x32#8, 0#8, 0#8⟩
          bad := ⟨true, false, false⟩ } := by decide +kernel

/-- V15 rows 19 and 24: the lowest index, and FRAMING before CHECKSUM. -/
theorem test_end_priority :
    regsOf (exec (.endFrame 0#8) (given 9#4 .measurement ⟨true, false, true⟩ .none)) =
      some { (given 9#4 .measurement ⟨true, false, true⟩ .checksum).regs with idx := 0#2 } ∧
    regsOf (exec (.endFrame 0#8) (given 6#4 .measurement ⟨true, true, false⟩ .none)) =
      some (given 6#4 .measurement ⟨true, true, false⟩ .framing).regs := by decide +kernel

/-- V15 rows 20 and 25. -/
theorem test_end_last_word_and_status :
    regsOf (exec (.endFrame 0xA5#8) (given 9#4 .measurement ⟨false, false, true⟩ .none)) =
      some { (given 9#4 .measurement ⟨false, false, true⟩ .checksum).regs with idx := 2#2 } ∧
    regsOf (exec (.endFrame 0#8) (given 3#4 .status noFlags .none)) =
      some (given 3#4 .status noFlags .ok).regs := by decide +kernel

/-- R64's worked example. -/
theorem test_gen : gCrc (State.reset.setGIn 0x01F4#16) = 0x33#8 ∧
    regsOf (exec (.gen 0x01#8 0xF4#8) State.reset) = some State.reset.regs := by decide +kernel

/-! ## The function: V4, V5, V17, V19 -/

theorem test_decodeFrame :
    decodeFrame [0x01#8, 0xF4#8, 0x33#8, 0x66#8, 0x67#8, 0x86#8, 0x5E#8, 0xB9#8, 0x68#8] 3 = .checksum 1 ∧
    decodeFrame [0x01#8, 0xF4#8, 0x33#8, 0x66#8, 0x67#8, 0xA2#8, 0x5E#8, 0xB9#8, 0x3C#8] 3 =
      .ok [⟨0x01F4#16, 0x33#8⟩, ⟨0x6667#16, 0xA2#8⟩, ⟨0x5EB9#16, 0x3C#8⟩] ∧
    decodeFrame [0xBE#8, 0xEF#8, 0x92#8] 1 = .ok [⟨0xBEEF#16, 0x92#8⟩] ∧
    decodeFrame [0x00#8, 0x00#8, 0x00#8, 0x00#8, 0x00#8, 0x00#8] 3 = .framing := by decide +kernel

end Sys2Proof.Tests
end

