-- ==== Sys2Proof/Tests/Witnesses.lean ====
section
/-! SUPPORT. Witnesses: for each statement of Certificates/Slice0/Obligations.lean with hypotheses, states and
operands that meet them together, each clause at a boundary value of its range. -/

namespace Sys2Proof.Tests

open Sys2Proof.Machine

theorem witness_DecodeEncodeRoundTrip :
    (Instr.beginFrame 0x7F#7 .measurement).wellFormed = true ∧ (Instr.gen 0xFF#8 0#8).wellFormed = true := by decide

theorem witness_EveryWordIsItsOpcodeRow :
    0x0FF#10 &&& 0x300#10 = 0x000#10 ∧ 0x1FF#10 &&& 0x300#10 = 0x100#10 ∧ 0x2FF#10 &&& 0x300#10 = 0x200#10 ∧
    0x3FF#10 &&& 0x300#10 = 0x300#10 := by decide

theorem witness_IgnoredBitsAreTheOnlyOnes :
    (∀ s, exec (.push 0xFF#8) s = exec (.push 0xFF#8) s) ∧
    (∀ s, exec (.beginFrame 0#7 .status) s = exec (.beginFrame 0x7F#7 .status) s) ∧
    (∀ s, exec (.gen 0x01#8 0xF4#8) s = exec (.gen 0x01#8 0xF4#8) s) :=
  ⟨fun _ => rfl, fun _ => rfl, fun _ => rfl⟩

theorem witness_ByteStepIsXorNetwork :
    0xFE#8 = 0xFF#8 ^^^ 0x01#8 ∧ 0x9D#8 = crcByteStep 0xFF#8 0x01#8 := by decide +kernel

/-- V1: a valid word, and another byte in each of its places. -/
theorem witness_SingleByteCorruptionIsCaught :
    crc8 0x01#8 0xF4#8 = 0x33#8 ∧ 0x32#8 ≠ 0x33#8 ∧ 0x00#8 ≠ 0x01#8 ∧ 0xF5#8 ≠ 0xF4#8 ∧ 0x01#8 ≠ 0#8 := by
  decide +kernel

theorem witness_CollisionsPassUnnoticed :
    0 < (0x0001#16).toNat ∧ (0x0130#16).toNat < 0x0131 ∧ crc8 0xFF#8 0xFF#8 = 0xAC#8 := by decide +kernel

theorem witness_ResetStepFromEveryState :
    (State.reset.setInputs [.edge true 0x2EF#10, .drive 0#16]).inputs = .edge true 0x2EF#10 :: [.drive 0#16] := rfl

theorem witness_BeginStartsFresh :
    exec (.beginFrame 0x7F#7 .status) State.reset = .next (State.reset.setRegs (startFrame .status)) := rfl

/-- Done; past nine at both ends; the first and the last word, at each place. -/
theorem witness_PushStoresChecksAndCounts :
    (given 9#4 .measurement noFlags .ok).regs.res ≠ .none ∧
    (∀ c ∈ [9#4, 15#4], (given c .measurement noFlags .none).regs.res = .none ∧
      9 ≤ (given c .measurement noFlags .none).regs.cnt.toNat) ∧
    (∀ k : Fin 3, ∀ p : Fin 3,
      (given (BitVec.ofNat 4 (3 * k.val + p.val)) .status noFlags .none).regs.res = .none ∧
      (given (BitVec.ofNat 4 (3 * k.val + p.val)) .status noFlags .none).regs.cnt.toNat = 3 * k.val + p.val) := by
  decide

theorem witness_FrameStoreLayout :
    (0 : Fin 9).val = 3 * (0 : Fin 3).val ∧ (7 : Fin 9).val = 3 * (2 : Fin 3).val + 1 ∧
    (8 : Fin 9).val = 3 * (2 : Fin 3).val + 2 := by decide

/-- A push that stores (to the last cell), one that only counts, one that is ignored. -/
theorem witness_PushFrame :
    (∃ t, exec (.push 0xAA#8) (given 8#4 .measurement noFlags .none) = .next t) ∧
    storeOffset (given 8#4 .measurement noFlags .none).regs.cnt = some 8 ∧
    (∃ t, exec (.push 0xAA#8) (given 9#4 .measurement noFlags .none) = .next t) ∧
    (∃ t, exec (.push 0xAA#8) (given 9#4 .measurement noFlags .framing) = .next t) :=
  ⟨⟨_, rfl⟩, by decide, ⟨_, rfl⟩, ⟨_, rfl⟩⟩

theorem witness_PushPastNineOnlyCounts :
    (given 9#4 .status noFlags .none).regs.res = .none ∧ 9 ≤ (given 9#4 .status noFlags .none).regs.cnt.toNat ∧
    9 ≤ (given 15#4 .status noFlags .none).regs.cnt.toNat := by decide

theorem witness_PushIgnoresFrameKind :
    (given 4#4 .status noFlags .none).regs.res = .none ∧ (given 4#4 .status noFlags .none).regs.exp = .status ∧
    3 < (given 4#4 .status noFlags .none).regs.cnt.toNat ∧ 3 < (given 15#4 .status noFlags .none).regs.cnt.toNat := by
  decide

/-- What a clause of `EndLatchesTheVerdict` asks of a state beside its flags, with the right byte count. -/
def collectsWholeFrame (s : State) (n : Nat) : Bool :=
  decide (n = (if s.regs.exp = .measurement then 3 else 1)) && decide (s.regs.res = .none) &&
    decide (s.regs.cnt.toNat = 3 * n)

/-- One state for each clause: done; wrong length for either kind; word 0, 1, 2 wrong; all right. -/
theorem witness_EndLatchesTheVerdict :
    (given 9#4 .measurement noFlags .checksum).regs.res ≠ .none ∧
    (∀ c ∈ [0#4, 8#4, 10#4, 15#4], (given c .measurement noFlags .none).regs.res = .none ∧
      (given c .measurement noFlags .none).regs.cnt.toNat ≠ 3 * 3) ∧
    (∀ c ∈ [0#4, 2#4, 4#4, 9#4], (given c .status noFlags .none).regs.res = .none ∧
      (given c .status noFlags .none).regs.cnt.toNat ≠ 3 * 1) ∧
    collectsWholeFrame (given 3#4 .status ⟨true, false, false⟩ .none) 1 = true ∧
    collectsWholeFrame (given 9#4 .measurement ⟨true, true, true⟩ .none) 3 = true ∧
    collectsWholeFrame (given 9#4 .measurement ⟨false, true, true⟩ .none) 3 = true ∧
    collectsWholeFrame (given 9#4 .measurement ⟨false, false, true⟩ .none) 3 = true ∧
    collectsWholeFrame (given 9#4 .measurement noFlags .none) 3 = true ∧
    collectsWholeFrame (given 3#4 .status ⟨false, true, true⟩ .none) 1 = true := by decide

theorem witness_EndIdleGenFrame :
    (∃ t, exec (.endFrame 0xA5#8) (given 9#4 .measurement noFlags .none) = .next t) ∧
    (∃ t, exec (.idle 0xA7#8) (given 9#4 .measurement noFlags .none) = .next t) ∧
    (∃ t, exec (.gen 0xFF#8 0#8) (given 9#4 .measurement noFlags .none) = .next t) :=
  ⟨⟨_, rfl⟩, ⟨_, rfl⟩, ⟨_, rfl⟩⟩

theorem witness_FramingBeforeChecksum :
    (given 8#4 .measurement noFlags .none).regs.res = .none ∧
    (given 8#4 .measurement noFlags .none).regs.cnt.toNat ≠ 3 * FrameKind.measurement.words ∧
    (given 10#4 .measurement noFlags .none).regs.cnt.toNat ≠ 3 * FrameKind.measurement.words := by decide

/-- What `LowestWrongWordIsReported` asks of a state and a word. -/
def lowestWrong (s : State) (k : Fin 3) : Bool :=
  decide (s.regs.res = .none) && decide (s.regs.cnt.toNat = 3 * s.regs.exp.words) &&
    decide (k.val < s.regs.exp.words) && s.regs.bad.get k &&
    decide (∀ j : Fin 3, j < k → s.regs.bad.get j = false)

/-- R105's example, words 0 and 2 both wrong; word 2 alone; the word of a status frame. -/
theorem witness_LowestWrongWordIsReported :
    lowestWrong (given 9#4 .measurement ⟨true, false, true⟩ .none) 0 = true ∧
    lowestWrong (given 9#4 .measurement ⟨false, false, true⟩ .none) 2 = true ∧
    lowestWrong (given 3#4 .status ⟨true, false, false⟩ .none) 0 = true := by decide

theorem witness_OnlyEndRaises :
    (given 9#4 .measurement ⟨false, true, false⟩ .none).regs.res = .none ∧
    ∃ t, exec (.endFrame 0#8) (given 9#4 .measurement ⟨false, true, false⟩ .none) = .next t :=
  ⟨rfl, _, rfl⟩

theorem witness_DoneIsSticky :
    (given 9#4 .measurement noFlags .ok).regs.res ≠ .none ∧
    ∀ e ∈ [Event.edge false 0x2AA#10, .edge false 0x300#10, .edge false 0x000#10, .drive 0xFFFF#16],
      e.starts? = none := by decide

theorem witness_OnlyBeginOrResetLeavesDone :
    ∃ t, step ((given 9#4 .measurement noFlags .ok).setInputs [.edge false 0x100#10]) = .next t ∧
      t.regs ≠ (given 9#4 .measurement noFlags .ok).regs :=
  ⟨_, rfl, by decide⟩

theorem witness_ResultPortsAreGated :
    (3 = if (given 9#4 .measurement noFlags .ok).regs.exp = .measurement then 3 else 1) ∧
    (1 = if (given 3#4 .status noFlags .ok).regs.exp = .measurement then 3 else 1) := by decide

/-- The reset registers after a status frame of three bytes 00 00 81 with the verdict OK (V2's word). -/
def statusFrameDone : Registers :=
  { Registers.reset with
    exp := .status, acc := 0x81#8, cnt := 3#4, chk := ⟨0x81#8, 0#8, 0#8⟩, res := .ok }

theorem witness_ShownWordsAreValid :
    RegInv statusFrameDone ∧ (ports statusFrameDone).stRes = 1#2 ∧
    (0 : Fin 3).val < (ports statusFrameDone).wNum.toNat := by
  refine ⟨?_, by decide +kernel, by decide +kernel⟩
  constructor <;> decide +kernel

theorem witness_StepIsTotalAndSelectsOneOperation :
    (0x0FF#10).extractLsb' 8 2 = 0b00#2 ∧ (0x1FF#10).extractLsb' 8 2 = 0b01#2 ∧
    (0x2FF#10).extractLsb' 8 2 = 0b10#2 ∧ (0x3FF#10).extractLsb' 8 2 = 0b11#2 ∧
    (State.reset.setInputs [.edge false 0x2FF#10]).inputs = .edge false 0x2FF#10 :: [] ∧
    (State.reset.setInputs [.edge true 0x2FF#10]).inputs = .edge true 0x2FF#10 :: [] := by decide

theorem witness_StepRunsTheDecodedInstruction :
    decode (.v 0x233#10) = .push 0x33#8 ∧
    (State.reset.setInputs [.edge false 0x233#10]).inputs = Event.ofPortWord (.v 0x233#10) :: [] ∧
    (State.reset.setInputs [Event.ofInstr (.gen 1#8 2#8)]).inputs = Event.ofInstr (.gen 1#8 2#8) :: [] ∧
    State.reset.inputs = [] := by decide

theorem witness_FetchedWordRunsNext :
    decodeTableWord 16 0x300 = some (.endFrame 0#8) ∧ decodeTableWord 16 0x400 = some (.gen 0x04#8 0#8) := by decide

theorem witness_EveryStepKeepsInvariant :
    RegInv statusFrameDone ∧ ∃ t, step { regs := statusFrameDone, gIn := 0#16, inputs := [.edge false 0x101#10] } = .next t :=
  ⟨witness_ShownWordsAreValid.1, _, rfl⟩

/-- The events of a status frame run with an IDLE and a GEN inside. -/
theorem witness_FrameRunProgress :
    (Event.edge false 0x100#10).starts? = some .status ∧ (Event.edge true 0x2EF#10).starts? = some .measurement ∧
    (∀ e ∈ [Event.edge false 0x280#10, .edge false 0x000#10, .drive 0x01F4#16, .edge false 0x200#10],
      e.inside = true) ∧
    3 * (0 : Fin 3).val + 3 ≤ (pushed [.edge false 0x280#10, .edge false 0x200#10, .edge false 0x2A2#10]).length := by
  decide

/-- V1 and V13: one valid word, and one wrong word after a valid one. -/
theorem witness_DecodeFunctionRule :
    ([0x01#8, 0xF4#8] : List Byte).length ≠ 3 * 1 ∧
    ([0x01#8, 0xF4#8, 0x33#8] : List Byte).length = 3 * 1 ∧ crc8 0x01#8 0xF4#8 = 0x33#8 ∧
    ([0x01#8, 0xF4#8, 0x33#8, 0x66#8, 0x67#8, 0x86#8, 0x5E#8, 0xB9#8, 0x68#8] : List Byte).length = 3 * 3 ∧
    crc8 0x66#8 0x67#8 ≠ 0x86#8 := by decide +kernel

theorem witness_ResultImageOnPorts :
    ([⟨0xBEEF#16, 0x92#8⟩] : List FrameWord).length = 1 ∧ 1 ≤ (1 : Fin 3).val ∧
    ([⟨0xBEEF#16, 0x92#8⟩] : List FrameWord)[(0 : Fin 3).val]? = some ⟨0xBEEF#16, 0x92#8⟩ := by decide

theorem witness_FrameRunComputesDecode :
    (Event.edge false 0x100#10).starts? = some .status ∧
    (∀ e ∈ [Event.edge false 0x280#10, .edge false 0x000#10], e.inside = true) ∧
    (Event.edge false 0x300#10).ends = true ∧
    (State.reset.setInputs [.edge false 0x100#10, .edge false 0x280#10, .edge false 0x000#10, .edge false 0x300#10,
      .drive 0#16]).inputs =
      .edge false 0x100#10 :: [.edge false 0x280#10, .edge false 0x000#10] ++ .edge false 0x300#10 :: [.drive 0#16] := by
  decide

/-- At the cut-off: a count of 15, and one of 21 that CNT shows as 15, with a push pending. -/
theorem witness_EveryEventKeepsCounterAgreement :
    ((given 15#4 .measurement noFlags .none).setInputs [.edge false 0x2AA#10]).inputs = .edge false 0x2AA#10 :: [] ∧
    ∀ n ∈ [15, 21], (⟨Registers.reset, n⟩ : WideRegisters).agrees (given 15#4 .measurement noFlags .none).regs := by
  refine ⟨rfl, fun n hn => ⟨rfl, ?_⟩⟩
  fin_cases hn <;> rfl

theorem witness_ValidFrameRoundTrip :
    crc8 (hiByte 0x0190#16) (loByte 0x0190#16) = 0x4C#8 ∧ crc8 (hiByte 0x6000#16) (loByte 0x6000#16) = 0xD4#8 ∧
    crc8 (hiByte 0x8000#16) (loByte 0x8000#16) = 0xA2#8 := by decide +kernel

/-- V18's frame, its first and its last byte replaced. -/
theorem witness_CorruptedByteNamesItsWord :
    let raw : List Byte := [0x01#8, 0xF4#8, 0x33#8, 0x66#8, 0x67#8, 0xA2#8, 0x5E#8, 0xB9#8, 0x3C#8]
    raw.length = 9 ∧
    (∀ k, k < 3 → crc8 (raw.getD (3 * k) 0#8) (raw.getD (3 * k + 1) 0#8) = raw.getD (3 * k + 2) 0#8) ∧
    0x00#8 ≠ raw.getD 0 0#8 ∧ 0x3D#8 ≠ raw.getD 8 0#8 := by decide +kernel

theorem witness_WrongLengthIsFraming :
    ([] : List Byte).length ≠ (if FrameKind.measurement = .measurement then 9 else 3) ∧
    (List.replicate 19 0x00#8).length ≠ (if FrameKind.status = .measurement then 9 else 3) := by decide

end Sys2Proof.Tests
end

section
/-! PROOFS. What one push does, said once for every count, and the totality of a pin event. -/

namespace Sys2Proof.Machine

/-! ## The effect of a push, for every value of CNT -/

@[simp] theorem pushByte_cnt (b : Byte) (r : Registers) : (pushByte b r).cnt = nextCnt r.cnt := by
  rcases pushByte_cases b r with ⟨o, _, h⟩ | ⟨_, h⟩ <;> simp [h]

@[simp] theorem pushByte_exp (b : Byte) (r : Registers) : (pushByte b r).exp = r.exp := by
  rcases pushByte_cases b r with ⟨o, _, h⟩ | ⟨_, h⟩ <;> simp [h]

@[simp] theorem pushByte_res (b : Byte) (r : Registers) : (pushByte b r).res = r.res := by
  rcases pushByte_cases b r with ⟨o, _, h⟩ | ⟨_, h⟩ <;> simp [h]

@[simp] theorem pushByte_idx (b : Byte) (r : Registers) : (pushByte b r).idx = r.idx := by
  rcases pushByte_cases b r with ⟨o, _, h⟩ | ⟨_, h⟩ <;> simp [h]

/-- The cell at offset CNT takes the byte, if there is one; every other cell stays (R31, R82, R85). -/
theorem frameCell_pushByte (b : Byte) (r : Registers) (o : Fin 9) :
    frameCell (pushByte b r) o = if r.cnt.toNat = o.val then b else frameCell r o := by
  rcases pushByte_cases b r with ⟨c, hc, h⟩ | ⟨hc, h⟩
  · have hcell : frameCell (pushByte b r) o = frameCell (frameWrite c b r) o :=
      frameCell_congr (by simp [h]) (by simp [h]) o
    rw [hcell, frameCell_frameWrite, hc]
    simp only [Fin.ext_iff, eq_comm]
  · have hne : r.cnt.toNat ≠ o.val := by omega
    rw [if_neg hne, h]
    exact frameCell_congr rfl rfl o

/-- Word `k`'s flag is written when its check byte comes, and at no other push (R15). -/
theorem pushByte_bad_get (b : Byte) (r : Registers) (k : Fin 3) :
    (pushByte b r).bad.get k = if r.cnt.toNat = 3 * k.val + 2 then b != r.acc else r.bad.get k := by
  rcases pushByte_cases b r with ⟨o, hc, h⟩ | ⟨hc, h⟩
  · have hbad : (pushByte b r).bad = (checkByte o b (frameWrite o b r)).bad := by simp [h]
    rw [hbad, checkByte_bad, hc]
    cases hp : posOf o with
    | high =>
      have := posOf_high.mp hp
      simp [show o.val ≠ 3 * k.val + 2 by omega]
    | low =>
      have := posOf_low.mp hp
      simp [show o.val ≠ 3 * k.val + 2 by omega]
    | check =>
      have hmod := posOf_check.mp hp
      have hk : k = wordOf o ↔ o.val = 3 * k.val + 2 := by
        rw [Fin.ext_iff, wordOf_val]; omega
      simp [PerWord.get_set, hk]
  · have hne : r.cnt.toNat ≠ 3 * k.val + 2 := by omega
    simp [h, hne]

/-- A word's first byte starts its CRC from the initial value (R82). -/
theorem pushByte_acc_high (b : Byte) {r : Registers} {k : Fin 3} (h : r.cnt.toNat = 3 * k.val) :
    (pushByte b r).acc = crcByteStep 0xFF#8 b := by
  rcases pushByte_cases b r with ⟨o, hc, he⟩ | ⟨hc, _⟩
  · have hp : posOf o = .high := posOf_high.mpr (by omega)
    simp [he, checkByte_acc, hp]
  · omega

/-- A word's second byte goes on from ACC (R82). -/
theorem pushByte_acc_low (b : Byte) {r : Registers} {k : Fin 3} (h : r.cnt.toNat = 3 * k.val + 1) :
    (pushByte b r).acc = crcByteStep r.acc b := by
  rcases pushByte_cases b r with ⟨o, hc, he⟩ | ⟨hc, _⟩
  · have hp : posOf o = .low := posOf_low.mpr (by omega)
    simp [he, checkByte_acc, hp]
  · omega

/-- A check byte, and a byte past the last cell, leave ACC as it is (R82, R85). -/
theorem pushByte_acc_of_check_or_past (b : Byte) {r : Registers}
    (h : r.cnt.toNat % 3 = 2 ∨ 9 ≤ r.cnt.toNat) : (pushByte b r).acc = r.acc := by
  rcases pushByte_cases b r with ⟨o, hc, he⟩ | ⟨_, he⟩
  · have hp : posOf o = .check := posOf_check.mpr (by omega)
    simp [he, checkByte_acc, hp]
  · simp [he]

theorem storedCount_pushByte (b : Byte) (r : Registers) :
    storedCount (pushByte b r) = min (r.cnt.toNat + 1) 9 := by
  simp only [storedCount, pushByte_cnt, nextCnt_toNat]
  omega

/-! ## The check byte computed from the held data bytes -/

theorem computedCheck_eq_frameCell (r : Registers) (k : Fin 3) :
    computedCheck r k = crc8 (frameCell r ⟨3 * k.val, by omega⟩) (frameCell r ⟨3 * k.val + 1, by omega⟩) := by
  rw [computedCheck, hiByte_val_get, loByte_val_get]

/-- Once both data bytes of a word are stored, no push changes what is computed from them. -/
theorem computedCheck_pushByte_of_stored (b : Byte) {r : Registers} {k : Fin 3}
    (h : 3 * k.val + 2 ≤ r.cnt.toNat) : computedCheck (pushByte b r) k = computedCheck r k := by
  simp only [computedCheck_eq_frameCell, frameCell_pushByte]
  rw [if_neg (by omega), if_neg (by omega)]

/-! ## Every pin event has an answer, and invariants of runs -/

/-- No operation stops the machine, in any state (R79). -/
theorem exec_next (i : Instr) (s : State) : ∃ t, exec i s = .next t := by
  cases i with
  | idle r => exact ⟨_, exec_idle r s⟩
  | beginFrame r sel => exact ⟨_, exec_beginFrame r sel s⟩
  | push b =>
    by_cases hr : s.regs.res = .none
    · exact ⟨_, exec_push_collecting hr⟩
    · exact ⟨_, exec_push_done hr⟩
  | endFrame r =>
    by_cases hr : s.regs.res = .none
    · exact ⟨_, exec_endFrame_collecting hr⟩
    · exact ⟨_, exec_endFrame_done hr⟩
  | gen hi lo => exact ⟨_, exec_gen hi lo s⟩

theorem sampleEvent_next (e : Event) (s : State) : ∃ t, sampleEvent e s = .next t := by
  cases he : e.instr? with
  | none =>
    obtain ⟨w, rfl⟩ := instr?_eq_none.mp he
    exact ⟨_, sampleEvent_reset w s⟩
  | some i =>
    rw [sampleEvent_instr he]
    exact exec_next i s

theorem feed_nil (s : State) : feed [] s = .next (s.setInputs []) := rfl

/-- A run of pin events ends in a next state, and a property of the registers that every pin event keeps
holds there. -/
theorem feed_keeps {P : Registers → Prop}
    (hP : ∀ {e : Event} {s t : State}, P s.regs → sampleEvent e s = .next t → P t.regs)
    (es : List Event) (s : State) (hs : P s.regs) : ∃ t, feed es s = .next t ∧ P t.regs := by
  induction es generalizing s with
  | nil => exact ⟨_, feed_nil s, hs⟩
  | cons e es ih =>
    obtain ⟨t, ht⟩ := sampleEvent_next e s
    rw [feed_cons ht]
    exact ih t (hP hs ht)

end Sys2Proof.Machine
end

section
/-! PROOFS. The invariant of reachable states (10_state.md R21): a fresh frame meets it, and a push, END
and so every pin event keep it. -/

namespace Sys2Proof.Machine

/-! ## A fresh frame -/

theorem frameCell_startFrame (kind : FrameKind) (o : Fin 9) : frameCell (startFrame kind) o = 0x00#8 := by
  rw [frameCell_congr (t := startFrame kind) (r := Registers.reset) rfl rfl]
  revert o; decide

theorem startFrame_bad_get (kind : FrameKind) (k : Fin 3) : (startFrame kind).bad.get k = false := by
  match k with
  | 0 | 1 | 2 => rfl

theorem storedCount_startFrame (kind : FrameKind) : storedCount (startFrame kind) = 0 := rfl

theorem startFrame_measurement : startFrame .measurement = Registers.reset := rfl

/-- Nothing is stored yet, no flag is set and no verdict is latched. -/
theorem regInv_startFrame (kind : FrameKind) : RegInv (startFrame kind) where
  emptyCells o _ := frameCell_startFrame kind o
  emptyFlags k _ := startFrame_bad_get kind k
  completeFlags k hk := by rw [storedCount_startFrame] at hk; omega
  accStart _ := rfl
  accHigh k hk := by rw [storedCount_startFrame] at hk; omega
  accWord k hk := by rw [storedCount_startFrame] at hk; omega
  idxOnlyChecksum h := absurd rfl h
  checksumVerdict h := nomatch h
  okVerdict h := nomatch h
  framingVerdict h := nomatch h
  idxRange := Nat.zero_le 2

theorem regInv_reset : RegInv Registers.reset := startFrame_measurement ▸ regInv_startFrame .measurement

/-! ## A push -/

theorem RegInv.idx_eq_zero {r : Registers} (h : RegInv r) (hr : r.res ≠ .checksum) : r.idx = 0#2 :=
  not_not.mp (mt h.idxOnlyChecksum hr)

/-- Item 2: a flag that a push completes compares the byte with ACC, which by item 3 is the word's computed
check byte. -/
theorem RegInv.completeFlags_pushByte {r : Registers} (h : RegInv r) (b : Byte) (k : Fin 3)
    (hk : 3 * k.val + 3 ≤ storedCount (pushByte b r)) :
    (pushByte b r).bad.get k = ((pushByte b r).chk.get k != computedCheck (pushByte b r) k) := by
  rw [storedCount_pushByte] at hk
  rw [pushByte_bad_get, chk_get, frameCell_pushByte, computedCheck_pushByte_of_stored b (by omega)]
  by_cases hc : r.cnt.toNat = 3 * k.val + 2
  · have hacc : r.acc = computedCheck r k := h.accWord k (.inl (by rw [storedCount]; omega))
    rw [if_pos hc, if_pos hc, hacc]
  · rw [if_neg hc, if_neg hc, ← chk_get]
    exact h.completeFlags k (by rw [storedCount]; omega)

/-- Item 3 after a word's first byte. -/
theorem accHigh_pushByte {r : Registers} (b : Byte) (k : Fin 3)
    (hk : storedCount (pushByte b r) = 3 * k.val + 1) :
    (pushByte b r).acc = crcByteStep 0xFF#8 (hiByte ((pushByte b r).val.get k)) := by
  rw [storedCount_pushByte] at hk
  have hc : r.cnt.toNat = 3 * k.val := by omega
  rw [pushByte_acc_high b hc, hiByte_val_get, frameCell_pushByte, if_pos hc]

/-- Item 3 after a word's second byte: ACC held the CRC of the first, and the push goes on from it. -/
theorem RegInv.acc_pushByte_low {r : Registers} (h : RegInv r) (b : Byte) {k : Fin 3}
    (hc : r.cnt.toNat = 3 * k.val + 1) : (pushByte b r).acc = computedCheck (pushByte b r) k := by
  have hacc : r.acc = crcByteStep 0xFF#8 (frameCell r ⟨3 * k.val, by omega⟩) := by
    rw [← hiByte_val_get]
    exact h.accHigh k (by rw [storedCount]; omega)
  rw [pushByte_acc_low b hc, computedCheck_eq_frameCell, frameCell_pushByte, frameCell_pushByte,
    if_pos hc, if_neg (show r.cnt.toNat ≠ 3 * k.val by omega), crc8_eq, hacc]

/-- Item 3 after a word's second or third byte. Past the ninth byte nothing changes but CNT. -/
theorem RegInv.accWord_pushByte {r : Registers} (h : RegInv r) (b : Byte) (k : Fin 3)
    (hk : storedCount (pushByte b r) = 3 * k.val + 2 ∨ storedCount (pushByte b r) = 3 * k.val + 3) :
    (pushByte b r).acc = computedCheck (pushByte b r) k := by
  rw [storedCount_pushByte] at hk
  by_cases hc : r.cnt.toNat = 3 * k.val + 1
  · exact h.acc_pushByte_low b hc
  · rw [pushByte_acc_of_check_or_past b (by omega), computedCheck_pushByte_of_stored b (by omega)]
    exact h.accWord k (by rw [storedCount]; omega)

/-- A push while a frame is collected keeps the invariant: items 4 to 6 speak of a latched verdict. -/
theorem RegInv.pushByte {r : Registers} (h : RegInv r) (hr : r.res = .none) (b : Byte) :
    RegInv (pushByte b r) where
  emptyCells o ho := by
    rw [storedCount_pushByte] at ho
    rw [frameCell_pushByte, if_neg (by omega)]
    exact h.emptyCells o (by rw [storedCount]; omega)
  emptyFlags k hk := by
    rw [storedCount_pushByte] at hk
    rw [pushByte_bad_get, if_neg (by omega)]
    exact h.emptyFlags k (by rw [storedCount]; omega)
  completeFlags := h.completeFlags_pushByte b
  accStart h0 := by
    have hcnt : (nextCnt r.cnt).toNat = 0 := by rw [← pushByte_cnt b r, h0]; rfl
    rw [nextCnt_toNat] at hcnt
    omega
  accHigh := accHigh_pushByte b
  accWord := h.accWord_pushByte b
  idxOnlyChecksum hi := absurd (h.idx_eq_zero (by simp [hr])) (by simpa using hi)
  checksumVerdict hv := by simp [hr] at hv
  okVerdict hv := by simp [hr] at hv
  framingVerdict hv := by simp [hr] at hv
  idxRange := by simpa using h.idxRange

/-! ## END -/

theorem RegInv.raise_framing {r : Registers} (h : RegInv r) (hc : r.cnt.toNat ≠ r.exp.bytes) :
    RegInv (raise .framing r) where
  __ := h
  idxOnlyChecksum hi := absurd rfl hi
  checksumVerdict hv := nomatch hv
  okVerdict hv := nomatch hv
  framingVerdict _ := hc
  idxRange := Nat.zero_le 2

theorem index_checksum_toNat (k : Fin 3) : (Exc.checksum k).index.toNat = k.val := by
  revert k; decide

theorem RegInv.raise_checksum {r : Registers} (h : RegInv r) {k : Fin 3} (hc : r.cnt.toNat = r.exp.bytes)
    (hk : firstBad r.exp r.bad = some k) : RegInv (raise (.checksum k) r) := by
  obtain ⟨hlt, hbad, hlow⟩ := firstBad_eq_some.mp hk
  have hidx : (raise (.checksum k) r).idx.toNat = k.val := index_checksum_toNat k
  exact {
    __ := h
    idxOnlyChecksum := fun _ => rfl
    checksumVerdict := fun _ => by
      rw [hidx]
      exact ⟨hlt, hc, fun j => ⟨fun hj => Fin.ext hj ▸ hbad, hlow j⟩⟩
    okVerdict := nofun
    framingVerdict := nofun
    idxRange := by omega }

theorem RegInv.accept {r : Registers} (h : RegInv r) (hc : r.cnt.toNat = r.exp.bytes)
    (hb : firstBad r.exp r.bad = none) : RegInv (accept r) where
  __ := h
  idxOnlyChecksum hi := absurd rfl hi
  checksumVerdict hv := nomatch hv
  okVerdict _ := ⟨hc, firstBad_eq_none.mp hb⟩
  framingVerdict hv := nomatch hv
  idxRange := Nat.zero_le 2

theorem RegInv.latchVerdict {r : Registers} (h : RegInv r) : RegInv (latchVerdict r) := by
  rcases latchVerdict_cases r with ⟨hc, he⟩ | ⟨k, hc, hk, he⟩ | ⟨hc, hb, he⟩ <;> rw [he]
  · exact h.raise_framing hc
  · exact h.raise_checksum hc hk
  · exact h.accept hc hb

/-! ## Every operation, every pin event, every step -/

theorem RegInv.exec {i : Instr} {s t : State} (h : RegInv s.regs) (ht : exec i s = .next t) :
    RegInv t.regs := by
  rcases exec_cases ht with ⟨_, _, rfl⟩ | ⟨_, sel, _, rfl⟩ | ⟨_, _, _, rfl⟩ | ⟨b, _, hr, rfl⟩ |
    ⟨_, _, _, rfl⟩ | ⟨_, _, _, rfl⟩ | ⟨_, _, _, rfl⟩
  · exact h
  · exact regInv_startFrame sel
  · exact h
  · exact h.pushByte hr b
  · exact h
  · exact h.latchVerdict
  · exact h

theorem RegInv.sampleEvent {e : Event} {s t : State} (h : RegInv s.regs) (ht : sampleEvent e s = .next t) :
    RegInv t.regs := by
  cases he : e.instr? with
  | none =>
    obtain ⟨w, rfl⟩ := instr?_eq_none.mp he
    rw [sampleEvent_reset] at ht
    cases ht
    exact regInv_reset
  | some i =>
    rw [sampleEvent_instr he] at ht
    exact h.exec ht

theorem RegInv.step {s t : State} (h : RegInv s.regs) (ht : step s = .next t) : RegInv t.regs := by
  cases hs : s.inputs with
  | nil =>
    rw [step_nil hs] at ht
    cases ht
    exact h
  | cons e es =>
    rw [step_cons hs] at ht
    exact RegInv.sampleEvent (s := s.setInputs es) h ht

/-! ## The statements -/

/-- Settles O41: a push rests on what ACC holds at each place of a word, END on the first wrong word, and BEGIN
and reset start a fresh frame. -/
theorem everyStepKeepsInvariant : Obligations.EveryStepKeepsInvariant :=
  fun _ _ h ht => h.step ht

/-- Settles O42, by induction on the pin events: reset meets the invariant and every pin event keeps it. -/
theorem reachableStatesMeetInvariant : Obligations.ReachableStatesMeetInvariant :=
  fun es => feed_keeps RegInv.sampleEvent es State.reset regInv_reset

/-- Settles O16: the reset state's registers are those of R10's column "reset". -/
theorem resetRegisterValues : Obligations.ResetRegisterValues := rfl

/-- Settles O40: reset is the start of a measurement frame. -/
theorem resetMeetsInvariant : Obligations.ResetMeetsInvariant := regInv_reset

end Sys2Proof.Machine
end

section
/-! PROOFS. The frame store (20_memory.md R30 to R34): the layout, the frame of PUSH, and the run of a whole
frame, whose byte count alone decides FRAMING. -/

namespace Sys2Proof.Machine

/-! ## `FrameWrite`, place by place -/

theorem wordOf_eq {o : Fin 9} {k : Fin 3} (h : o.val / 3 = k.val) : wordOf o = k := Fin.ext h

theorem frameWrite_high {o : Fin 9} {k : Fin 3} (h : o.val = 3 * k.val) (b : Byte) (r : Registers) :
    frameWrite o b r = r.setVal (r.val.set k (beValue b (loByte (r.val.get k)))) := by
  have hp : posOf o = .high := posOf_high.mpr (by omega)
  simp only [frameWrite, hp, wordOf_eq (by omega : o.val / 3 = k.val)]

theorem frameWrite_low {o : Fin 9} {k : Fin 3} (h : o.val = 3 * k.val + 1) (b : Byte) (r : Registers) :
    frameWrite o b r = r.setVal (r.val.set k (beValue (hiByte (r.val.get k)) b)) := by
  have hp : posOf o = .low := posOf_low.mpr (by omega)
  simp only [frameWrite, hp, wordOf_eq (by omega : o.val / 3 = k.val)]

theorem frameWrite_check {o : Fin 9} {k : Fin 3} (h : o.val = 3 * k.val + 2) (b : Byte) (r : Registers) :
    frameWrite o b r = r.setChk (r.chk.set k b) := by
  have hp : posOf o = .check := posOf_check.mpr (by omega)
  simp only [frameWrite, hp, wordOf_eq (by omega : o.val / 3 = k.val)]

/-- Settles O22: the offset's word and place choose the register part, and reads follow writes. -/
theorem frameStoreLayout : Obligations.FrameStoreLayout := by
  refine ⟨fun r b o k => ⟨fun h => frameWrite_high h b r, fun h => frameWrite_low h b r,
    fun h => frameWrite_check h b r⟩, fun r => ?_, fun r b o o' => frameCell_frameWrite o o' b r⟩
  exact ⟨rfl, rfl, rfl, rfl, rfl, rfl, rfl, rfl, rfl⟩

/-! ## The frame of PUSH -/

/-- Everything PUSH can do: nothing once a verdict is latched, else `pushByte`. -/
theorem exec_push_cases {b : Byte} {s t : State} (h : exec (.push b) s = .next t) :
    (s.regs.res ≠ .none ∧ t = s) ∨ (s.regs.res = .none ∧ t = s.setRegs (pushByte b s.regs)) := by
  by_cases hr : s.regs.res = .none
  · rw [exec_push_collecting hr] at h
    cases h
    exact .inr ⟨hr, rfl⟩
  · rw [exec_push_done hr] at h
    cases h
    exact .inl ⟨hr, rfl⟩

/-- Settles O23: a push of a done block changes nothing; any other changes one cell, its word's flag, ACC and
CNT at most. -/
theorem pushFrame : Obligations.PushFrame := by
  intro b s t ht
  rcases exec_push_cases ht with ⟨hr, rfl⟩ | ⟨hr, rfl⟩
  · simp [hr]
  · refine ⟨fun o => ?_, fun k hk => ?_, fun h => ?_, fun h => absurd hr h, pushByte_exp b _,
      pushByte_res b _, pushByte_idx b _, rfl, rfl⟩
    · simp [frameCell_pushByte, hr, storeOffset_eq_some]
    · have hne : s.regs.cnt.toNat ≠ 3 * k.val + 2 := fun hc => hk ⟨hr, hc⟩
      rw [State.setRegs_regs, pushByte_bad_get, if_neg hne]
    · exact pushByte_acc_of_check_or_past b ((h.resolve_left (· hr)).symm)

/-! ## The operation that a pin event presents -/

theorem decodeV_append (op : BitVec 2) (d : Byte) :
    decodeV (op ++ d) =
      if op = 0b00#2 then .idle d
      else if op = 0b01#2 then .beginFrame (d.extractLsb' 1 7) (.ofBit (d.extractLsb' 0 1))
      else if op = 0b10#2 then .push d
      else .endFrame d := by
  simp only [decodeV, opField_append, operandField_append]

theorem decodeG_append (hi lo : Byte) : decodeG (hi ++ lo) = .gen hi lo :=
  congrArg₂ Instr.gen (hiByte_beValue hi lo) (loByte_beValue hi lo)

/-- The operand byte of BEGIN holds `sel` in its lowest bit (30_encoding.md R48, R49). -/
theorem decodeV_begin (r : BitVec 7) (sel : FrameKind) :
    decodeV (0b01#2 ++ r ++ sel.bit) = .beginFrame r sel := by
  have hassoc : (0b01#2 ++ r ++ sel.bit : CmdWord) = 0b01#2 ++ (r ++ sel.bit : Byte) := by
    rw [BitVec.append_assoc]; rfl
  have hr : (r ++ sel.bit).extractLsb' 1 7 = r := BitVec.extractLsb'_append_eq_left
  have hsel : (r ++ sel.bit).extractLsb' 0 1 = sel.bit := BitVec.extractLsb'_append_eq_right
  rw [hassoc, decodeV_append, if_neg (by decide), if_pos rfl, hr, hsel, FrameKind.ofBit_bit]

theorem decode_encode (i : Instr) : decode (encode i) = i := by
  cases i with
  | idle r => exact decodeV_append 0b00#2 r
  | beginFrame r sel => exact decodeV_begin r sel
  | push b => exact decodeV_append 0b10#2 b
  | endFrame r => exact decodeV_append 0b11#2 r
  | gen hi lo => exact decodeG_append hi lo

theorem instr?_ofInstr (i : Instr) : (Event.ofInstr i).instr? = some i := by
  have hword : ∀ p : PortWord, (Event.ofPortWord p).instr? = some (decode p) := fun
    | .v _ => rfl
    | .g _ => rfl
  rw [Event.ofInstr, hword, decode_encode]

theorem sampleEvent_ofInstr (i : Instr) (s : State) : sampleEvent (Event.ofInstr i) s = exec i s :=
  sampleEvent_instr (instr?_ofInstr i) s

theorem feed_ofInstr {i : Instr} {es : List Event} {s t : State} (h : exec i s = .next t) :
    feed (Event.ofInstr i :: es) s = feed es t :=
  feed_cons ((sampleEvent_ofInstr i s).trans h)

/-! ## Pushing a whole sequence of bytes -/

/-- The bytes pushed in order while a frame is collected: what a run of PUSHes leaves (`feed_pushes`). -/
def pushBytes (raw : List Byte) (r : Registers) : Registers :=
  raw.foldl (fun r b => pushByte b r) r

@[simp] theorem pushBytes_nil (r : Registers) : pushBytes [] r = r := rfl

@[simp] theorem pushBytes_cons (b : Byte) (raw : List Byte) (r : Registers) :
    pushBytes (b :: raw) r = pushBytes raw (pushByte b r) := rfl

@[simp] theorem pushBytes_res (raw : List Byte) (r : Registers) : (pushBytes raw r).res = r.res := by
  induction raw generalizing r with
  | nil => rfl
  | cons b raw ih => rw [pushBytes_cons, ih, pushByte_res]

@[simp] theorem pushBytes_exp (raw : List Byte) (r : Registers) : (pushBytes raw r).exp = r.exp := by
  induction raw generalizing r with
  | nil => rfl
  | cons b raw ih => rw [pushBytes_cons, ih, pushByte_exp]

/-- CNT counts the bytes and stops at 15 (R14). -/
theorem pushBytes_cnt_toNat (raw : List Byte) (r : Registers) :
    (pushBytes raw r).cnt.toNat = min (r.cnt.toNat + raw.length) 15 := by
  induction raw generalizing r with
  | nil => simp only [pushBytes_nil, List.length_nil]; omega
  | cons b raw ih =>
    simp only [pushBytes_cons, ih, pushByte_cnt, nextCnt_toNat, List.length_cons]
    omega

theorem feed_pushes (raw : List Byte) (es : List Event) {s : State} (hr : s.regs.res = .none) :
    feed ((raw.map Instr.push).map Event.ofInstr ++ es) s = feed es (s.setRegs (pushBytes raw s.regs)) := by
  induction raw generalizing s with
  | nil => rfl
  | cons b raw ih =>
    refine (feed_ofInstr (exec_push_collecting hr)).trans ?_
    exact ih (by simp [hr])

/-- FRAME: a fresh frame, its bytes pushed, the verdict latched (30_encoding.md R56). -/
theorem feed_pseudoFrame (kind : FrameKind) (raw : List Byte) (s : State) :
    feed ((pseudoFrame kind raw).map Event.ofInstr) s =
      .next ((s.setRegs (latchVerdict (pushBytes raw (startFrame kind)))).setInputs []) := by
  have hres : (pushBytes raw (startFrame kind)).res = .none := pushBytes_res raw _
  calc feed ((pseudoFrame kind raw).map Event.ofInstr) s
    _ = feed ((raw.map Instr.push).map Event.ofInstr ++ [Event.ofInstr (.endFrame 0#8)])
          (s.setRegs (startFrame kind)) := by
        rw [pseudoFrame, List.map_append, List.map_append, List.append_assoc]
        exact feed_ofInstr (exec_beginFrame 0#7 kind s)
    _ = feed [Event.ofInstr (.endFrame 0#8)] (s.setRegs (pushBytes raw (startFrame kind))) :=
        feed_pushes raw _ rfl
    _ = _ := feed_ofInstr (exec_endFrame_collecting hres)

/-! ## The byte count alone decides FRAMING -/

theorem latchVerdict_of_wrong_count {r : Registers} (h : r.cnt.toNat ≠ r.exp.bytes) :
    latchVerdict r = raise .framing r := by
  simp [latchVerdict, endException, h]

theorem ports_raise_framing (r : Registers) :
    ports (raise .framing r) = ⟨3#2, 0#2, 0#2, ⟨0#16, 0#16, 0#16⟩, ⟨0#8, 0#8, 0#8⟩⟩ :=
  ports_of_not_ok (r := raise .framing r) nofun

theorem bytes_eq (kind : FrameKind) : kind.bytes = if kind = .measurement then 9 else 3 := by
  cases kind <;> rfl

/-- A saturated CNT cannot be mistaken for the expected count: both kinds expect fewer than 15 bytes. -/
theorem cnt_pushBytes_startFrame_ne (kind : FrameKind) {raw : List Byte} (h : raw.length ≠ kind.bytes) :
    (pushBytes raw (startFrame kind)).cnt.toNat ≠ kind.bytes := by
  have hcnt : (pushBytes raw (startFrame kind)).cnt.toNat = min (0 + raw.length) 15 :=
    pushBytes_cnt_toNat raw (startFrame kind)
  have hlt : kind.bytes < 15 := by cases kind <;> decide
  omega

/-- Settles O51: CNT at END differs from the expected count just as the length does, so END raises Framing. -/
theorem wrongLengthIsFraming : Obligations.WrongLengthIsFraming := by
  intro kind raw s hlen
  rw [← bytes_eq] at hlen
  have hexp : (pushBytes raw (startFrame kind)).exp = kind := pushBytes_exp raw _
  have hcnt := cnt_pushBytes_startFrame_ne kind hlen
  refine ⟨_, feed_pseudoFrame kind raw s, ?_⟩
  rw [State.setInputs_regs, State.setRegs_regs, latchVerdict_of_wrong_count (by rwa [hexp]),
    ports_raise_framing]

end Sys2Proof.Machine
end

section
/-! PROOFS. Decoding and encoding (30_encoding.md R43 to R56): the fields of a command word, the opcode map, the
ignored bits, the table word that the host places, and the pseudo-operations WORD and WORDOK. -/

namespace Sys2Proof.Machine

/-! ## The fields of a command word -/

/-- A command word is its operation code followed by its operand byte (R43). -/
theorem opField_append_operandField (w : CmdWord) : opField w ++ operandField w = w := by
  have h : opField w ++ operandField w = w.extractLsb' 0 10 :=
    BitVec.extractLsb'_append_extractLsb'_eq_extractLsb' rfl
  rw [h, BitVec.extractLsb'_eq_self]

theorem opField_cases (op : BitVec 2) : op = 0b00#2 ∨ op = 0b01#2 ∨ op = 0b10#2 ∨ op = 0b11#2 := by
  revert op; decide

/-- BEGIN's operand byte is its ignored bits followed by `sel` (R48, R49). -/
theorem begin_operand_append (d : Byte) :
    d.extractLsb' 1 7 ++ (FrameKind.ofBit (d.extractLsb' 0 1)).bit = d := by
  have h : d.extractLsb' 1 7 ++ d.extractLsb' 0 1 = d.extractLsb' 0 8 :=
    BitVec.extractLsb'_append_extractLsb'_eq_extractLsb' rfl
  rw [FrameKind.bit_ofBit, h, BitVec.extractLsb'_eq_self]

/-! ## The round trips -/

/-- Settles O1: every operand field is read back from where the encoder puts it. -/
theorem decodeEncodeRoundTrip : Obligations.DecodeEncodeRoundTrip :=
  fun i _ => decode_encode i

theorem encode_decodeV_append (op : BitVec 2) (d : Byte) : encode (decodeV (op ++ d)) = .v (op ++ d) := by
  rw [decodeV_append]
  rcases opField_cases op with rfl | rfl | rfl | rfl
  · rfl
  · have hassoc : ∀ (r : BitVec 7) (sel : BitVec 1),
        (0b01#2 ++ r ++ sel : CmdWord) = 0b01#2 ++ (r ++ sel : Byte) := fun r sel => by
      rw [BitVec.append_assoc]; rfl
    rw [if_neg (by decide), if_pos rfl, encode, hassoc, begin_operand_append]
  · rfl
  · rfl

theorem encode_decode (p : PortWord) : encode (decode p) = p := by
  cases p with
  | v w =>
    rw [← opField_append_operandField w]
    exact encode_decodeV_append _ _
  | g x => exact congrArg PortWord.g (beValue_hiByte_loByte x)

/-- Settles O2: the two fields of a command word, and the two bytes of a generator input, lose no bit. -/
theorem encodeDecodeRoundTrip : Obligations.EncodeDecodeRoundTrip := encode_decode

/-! ## The opcode map -/

/-- The mask of the V rows keeps bits 9:8 and clears the operand byte. -/
theorem and_opMask (w : CmdWord) : w &&& 0x300#10 = opField w ++ 0x00#8 := by
  have hop : opField w &&& 0b11#2 = opField w := BitVec.and_allOnes
  calc w &&& 0x300#10
    _ = (opField w ++ operandField w) &&& (0b11#2 ++ 0x00#8) := by rw [opField_append_operandField]; rfl
    _ = opField w ++ 0x00#8 := by rw [BitVec.and_append, hop, BitVec.and_zero]

theorem opField_of_and_opMask {w : CmdWord} {op : BitVec 2} (h : w &&& 0x300#10 = op ++ 0x00#8) :
    opField w = op := by
  rw [and_opMask] at h
  simpa using congrArg opField h

theorem decode_of_opField (w : CmdWord) :
    decode (.v w) =
      if opField w = 0b00#2 then .idle (operandField w)
      else if opField w = 0b01#2 then
        .beginFrame (w.extractLsb' 1 7) (if w.getLsbD 0 then .measurement else .status)
      else if opField w = 0b10#2 then .push (operandField w)
      else .endFrame (operandField w) := by
  have hr : (operandField w).extractLsb' 1 7 = w.extractLsb' 1 7 :=
    BitVec.extractLsb'_extractLsb'_of_le (by decide)
  have hsel : (operandField w).extractLsb' 0 1 = w.extractLsb' 0 1 :=
    BitVec.extractLsb'_extractLsb'_of_le (by decide)
  simp only [decode, decodeV, hr, hsel, FrameKind.ofBit, BitVec.getLsbD_eq_extractLsb', beq_iff_eq]

/-- A word meets one match value of the V rows: its operation code is one of the four (R49). -/
theorem matching_rows_length (w : CmdWord) :
    ([0x000#10, 0x100#10, 0x200#10, 0x300#10].filter fun m => w &&& 0x300#10 == m).length = 1 := by
  rw [and_opMask]
  rcases opField_cases (opField w) with h | h | h | h <;> rw [h] <;> rfl

theorem append_eq_add_setWidth (b : Byte) : (0b10#2 ++ b : CmdWord) = 0x200#10 + b.setWidth 10 := by
  have hb : b.setWidth 10 = 0b00#2 ++ b := BitVec.setWidth_eq_append (by decide)
  rw [hb]
  exact BitVec.append_zero_add_zero_append.symm

/-- Settles O3: the mask leaves the operation code, which selects the row. -/
theorem everyWordIsItsOpcodeRow : Obligations.EveryWordIsItsOpcodeRow := by
  refine ⟨fun w => ⟨fun h => ?_, fun h => ?_, fun h => ?_, fun h => ?_, matching_rows_length w⟩,
    fun x => rfl, rfl, rfl, rfl, fun b => ?_, rfl⟩
  · rw [decode_of_opField, opField_of_and_opMask (op := 0b00#2) h]; rfl
  · rw [decode_of_opField, opField_of_and_opMask (op := 0b01#2) h]; rfl
  · rw [decode_of_opField, opField_of_and_opMask (op := 0b10#2) h]; rfl
  · rw [decode_of_opField, opField_of_and_opMask (op := 0b11#2) h]; rfl
  · exact congrArg PortWord.v (append_eq_add_setWidth b)

/-- Settles O4: each written-out word is the encoding of its operation. -/
theorem writtenOutWordsDecode : Obligations.WrittenOutWordsDecode :=
  ⟨decode_encode (.idle 0xA7#8), decode_encode (.beginFrame 0#7 .status),
    decode_encode (.beginFrame 0x7F#7 .measurement), decode_encode (.push 0xF4#8),
    decode_encode (.endFrame 0xA5#8), decode_encode (.gen 0x01#8 0xF4#8)⟩

/-! ## The ignored bits -/

theorem exec_push_injective {b b' : Byte} (h : ∀ s, exec (.push b) s = exec (.push b') s) : b = b' := by
  have hr : State.reset.regs.res = .none := rfl
  have hregs : pushByte b State.reset.regs = pushByte b' State.reset.regs := by
    have hreset := h State.reset
    rw [exec_push_collecting hr, exec_push_collecting hr] at hreset
    injection hreset with hstate
    exact congrArg State.regs hstate
  have hcell := congrArg (frameCell · 0) hregs
  simpa [frameCell_pushByte, State.reset, Registers.reset] using hcell

/-- Settles O5: EXP shows BEGIN's `sel`, the first cell a pushed byte, and the level on g_in GEN's bytes. -/
theorem ignoredBitsAreTheOnlyOnes : Obligations.IgnoredBitsAreTheOnlyOnes := by
  refine ⟨fun _ _ => rfl, fun _ _ => rfl, fun _ _ _ => rfl, fun _ _ => exec_push_injective,
    fun r r' sel sel' h => ?_, fun hi lo hi' lo' h => ?_⟩
  · have hreset := h State.reset
    rw [exec_beginFrame, exec_beginFrame] at hreset
    injection hreset with hstate
    exact congrArg (·.regs.exp) hstate
  · have hreset := h State.reset
    rw [exec_gen, exec_gen] at hreset
    injection hreset with hstate
    have hval : beValue hi lo = beValue hi' lo' := congrArg State.gIn hstate
    exact ⟨by simpa using congrArg hiByte hval, by simpa using congrArg loByte hval⟩

/-! ## WORD and WORDOK -/

theorem pseudoWord_beValue (hh ll c : Byte) : pseudoWord (beValue hh ll) c = [.push hh, .push ll, .push c] := by
  simp [pseudoWord]

theorem pseudoWordOk_beValue (hh ll : Byte) :
    pseudoWordOk (beValue hh ll) = pseudoWord (beValue hh ll) (crc8 hh ll) := by
  simp [pseudoWordOk]

/-- Settles O6: the value's bytes are the two it is written from. -/
theorem wordPseudoOperationsExpand : Obligations.WordPseudoOperationsExpand :=
  ⟨pseudoWord_beValue, pseudoWordOk_beValue⟩

/-! ## The word that the host places -/

theorem sampleEvent_ofPortWord (p : PortWord) (s : State) :
    sampleEvent (Event.ofPortWord p) s = exec (decode p) s := by
  cases p <;> rfl

theorem step_withFetchWord {nbits w : Nat} {p : PortWord} (h : tableWord nbits w = some p) (s : State) :
    step (s.withFetchWord nbits w) = exec (decode p) s := by
  have hs : s.withFetchWord nbits w = s.setInputs (Event.ofPortWord p :: s.inputs) := by
    simp [State.withFetchWord, h]
  rw [hs, step_cons (e := Event.ofPortWord p) (es := s.inputs) rfl]
  exact sampleEvent_ofPortWord p s

/-- Settles O39: the placed word's event is the first one pending, and taking it restores the list. -/
theorem fetchedWordRunsNext : Obligations.FetchedWordRunsNext := by
  intro nbits w i s h
  rw [decodeTableWord_eq, Option.map_eq_some_iff] at h
  obtain ⟨p, hp, rfl⟩ := h
  exact step_withFetchWord hp s

end Sys2Proof.Machine
end

section
/-! PROOFS. FRAME computes `decode_frame` (30_encoding.md R56, 41_validator.md R76, R77): after all bytes are
pushed the registers hold the words of the byte sequence and one flag for each wrong word, so the verdict that END
latches is the function's result. -/

namespace Sys2Proof.Machine

/-! ## The words of a byte sequence -/

/-- Word `k` of a byte sequence, its absent bytes read as zero: what `groups` lists (`groups_eq_map_wordAt`) and
the frame store holds (`val_get_pushBytes`, `chk_get_pushBytes`). -/
def wordAt (raw : List Byte) (k : Nat) : FrameWord :=
  ⟨beValue (raw.getD (3 * k) 0x00#8) (raw.getD (3 * k + 1) 0x00#8), raw.getD (3 * k + 2) 0x00#8⟩

theorem groups_eq_map_wordAt {n : Nat} {raw : List Byte} (h : raw.length = 3 * n) :
    groups raw = (List.range n).map (wordAt raw) := by
  induction n generalizing raw with
  | zero => rw [List.eq_nil_of_length_eq_zero h]; rfl
  | succ n ih =>
    match raw, h with
    | hi :: lo :: c :: rest, h =>
      have hrest : rest.length = 3 * n := by simp only [List.length_cons] at h; omega
      rw [groups_cons, ih hrest, List.range_succ_eq_map, List.map_cons, List.map_map]
      rfl

theorem examine_map_range' (words : Nat → FrameWord) (n k : Nat) :
    examine k ((List.range' k n).map words) = (List.range' k n).find? fun j => !(words j).valid := by
  induction n generalizing k with
  | zero => rfl
  | succ n ih =>
    rw [List.range'_succ, List.map_cons, examine_cons, List.find?_cons, ih]
    cases (words k).valid <;> rfl

/-- `examine` finds the first index whose word is wrong. -/
theorem examine_map_range (words : Nat → FrameWord) (n : Nat) :
    examine 0 ((List.range n).map words) = (List.range n).find? fun j => !(words j).valid := by
  rw [List.range_eq_range']
  exact examine_map_range' words n 0

theorem decodeFrame_of_wrong_length {raw : List Byte} {n : Nat} (h : raw.length ≠ 3 * n) :
    decodeFrame raw n = .framing := by
  simp [decodeFrame, h]

theorem decodeFrame_of_wrong_word {raw : List Byte} {n k : Nat} (h : raw.length = 3 * n)
    (hk : examine 0 ((List.range n).map (wordAt raw)) = some k) : decodeFrame raw n = .checksum k := by
  simp [decodeFrame, h, groups_eq_map_wordAt h, hk]

theorem decodeFrame_of_valid_words {raw : List Byte} {n : Nat} (h : raw.length = 3 * n)
    (hk : examine 0 ((List.range n).map (wordAt raw)) = none) :
    decodeFrame raw n = .ok ((List.range n).map (wordAt raw)) := by
  simp [decodeFrame, h, groups_eq_map_wordAt h, hk]

/-! ## What the registers hold after the pushes -/

theorem RegInv.pushBytes {r : Registers} (h : RegInv r) (hr : r.res = .none) (raw : List Byte) :
    RegInv (pushBytes raw r) := by
  induction raw generalizing r with
  | nil => exact h
  | cons b raw ih => exact ih (h.pushByte hr b) (by rwa [pushByte_res])

/-- The bytes land from offset CNT on, one a cell; where none lands a cell keeps what it held (R31, R82). -/
theorem frameCell_pushBytes (raw : List Byte) (r : Registers) (o : Fin 9) :
    frameCell (pushBytes raw r) o =
      if r.cnt.toNat ≤ o.val then raw.getD (o.val - r.cnt.toNat) (frameCell r o) else frameCell r o := by
  induction raw generalizing r with
  | nil => simp
  | cons b raw ih =>
    rw [pushBytes_cons, ih, pushByte_cnt, nextCnt_toNat, frameCell_pushByte]
    rcases lt_trichotomy r.cnt.toNat o.val with hlt | heq | hgt
    · have hnext : min (r.cnt.toNat + 1) 15 = r.cnt.toNat + 1 := by omega
      have hsub : o.val - r.cnt.toNat = o.val - (r.cnt.toNat + 1) + 1 := by omega
      rw [hnext, if_pos (by omega), if_neg hlt.ne, if_pos hlt.le, hsub, List.getD_cons_succ]
    · rw [if_neg (by omega), if_pos heq, if_pos heq.le, heq, Nat.sub_self, List.getD_cons_zero]
    · rw [if_neg (by omega), if_neg hgt.ne', if_neg (by omega)]

theorem frameCell_pushBytes_startFrame (kind : FrameKind) (raw : List Byte) (o : Fin 9) :
    frameCell (pushBytes raw (startFrame kind)) o = raw.getD o.val 0x00#8 := by
  rw [frameCell_pushBytes, frameCell_startFrame]
  exact if_pos (Nat.zero_le _)

theorem val_get_pushBytes (kind : FrameKind) (raw : List Byte) (k : Fin 3) :
    (pushBytes raw (startFrame kind)).val.get k = (wordAt raw k.val).value := by
  rw [← beValue_hiByte_loByte ((pushBytes raw (startFrame kind)).val.get k), hiByte_val_get, loByte_val_get,
    frameCell_pushBytes_startFrame, frameCell_pushBytes_startFrame, wordAt]

theorem chk_get_pushBytes (kind : FrameKind) (raw : List Byte) (k : Fin 3) :
    (pushBytes raw (startFrame kind)).chk.get k = (wordAt raw k.val).check := by
  rw [chk_get, frameCell_pushBytes_startFrame, wordAt]

/-- Once all three bytes of a word are pushed its flag says whether the word is wrong (R15). -/
theorem bad_get_pushBytes (kind : FrameKind) {raw : List Byte} {k : Fin 3} (hk : 3 * k.val + 3 ≤ raw.length) :
    (pushBytes raw (startFrame kind)).bad.get k = !(wordAt raw k.val).valid := by
  have hinv : RegInv (pushBytes raw (startFrame kind)) := (regInv_startFrame kind).pushBytes rfl raw
  have hcnt : (pushBytes raw (startFrame kind)).cnt.toNat = min (0 + raw.length) 15 :=
    pushBytes_cnt_toNat raw (startFrame kind)
  rw [hinv.completeFlags k (by rw [storedCount]; omega), computedCheck, val_get_pushBytes, chk_get_pushBytes,
    FrameWord.valid, bne, BEq.comm]

/-! ## The verdict and the function's result -/

theorem at_map_range (words : Nat → FrameWord) (n k : Nat) :
    FrameWord.at ((List.range n).map words) k = if k < n then words k else ⟨0x0000#16, 0x00#8⟩ := by
  by_cases h : k < n <;> simp [FrameWord.at, h]

theorem gated_accept {n : Nat} (r : Registers) (k : Fin 3) (x : BitVec n) :
    gated (accept r) k x = if k.val < r.exp.words then x else 0#n := by
  simp only [gated, shown_eq_true, accept_eq, true_and]

/-- Under OK the ports show the words that the registers hold (R88, R77). -/
theorem ports_accept {r : Registers} {words : Nat → FrameWord}
    (hval : ∀ k : Fin 3, r.val.get k = (words k.val).value)
    (hchk : ∀ k : Fin 3, r.chk.get k = (words k.val).check) :
    ports (accept r) = encResult r.exp.words (.ok ((List.range r.exp.words).map words)) := by
  have hv : ∀ k, (accept r).val.get k = (words k.val).value := hval
  have hc : ∀ k, (accept r).chk.get k = (words k.val).check := hchk
  simp only [ports, gated_accept, hv, hc, encResult, at_map_range, apply_ite FrameWord.value,
    apply_ite FrameWord.check]
  rfl

theorem ports_raise_checksum (k : Fin 3) (n : Nat) (r : Registers) :
    ports (raise (.checksum k) r) = encResult n (.checksum k.val) :=
  ports_of_not_ok (r := raise (.checksum k) r) nofun

/-- CNT is the expected count just when the length is: it saturates above both kinds' counts (R14). -/
theorem cnt_pushBytes_startFrame_eq_iff (kind : FrameKind) (raw : List Byte) :
    (pushBytes raw (startFrame kind)).cnt.toNat = kind.bytes ↔ raw.length = 3 * kind.words := by
  have hcnt : (pushBytes raw (startFrame kind)).cnt.toNat = min (0 + raw.length) 15 :=
    pushBytes_cnt_toNat raw (startFrame kind)
  have hbytes : kind.bytes = 3 * kind.words := rfl
  rcases words_cases kind with hw | hw <;> omega

/-- The lowest flag set belongs to the first word that `examine` finds wrong (R76, R105). -/
theorem examine_of_firstBad_some {kind : FrameKind} {raw : List Byte} {k : Fin 3}
    (h : raw.length = 3 * kind.words) (hk : firstBad kind (pushBytes raw (startFrame kind)).bad = some k) :
    examine 0 ((List.range kind.words).map (wordAt raw)) = some k.val := by
  obtain ⟨hlt, hbad, hlow⟩ := firstBad_eq_some.mp hk
  rw [bad_get_pushBytes kind (by omega)] at hbad
  rw [examine_map_range, List.find?_range_eq_some]
  refine ⟨hbad, List.mem_range.mpr hlt, fun j hj => ?_⟩
  have hgood := hlow ⟨j, by omega⟩ hj
  rw [bad_get_pushBytes kind (by simp only; omega)] at hgood
  simp [hgood]

theorem examine_of_firstBad_none {kind : FrameKind} {raw : List Byte}
    (h : raw.length = 3 * kind.words) (hk : firstBad kind (pushBytes raw (startFrame kind)).bad = none) :
    examine 0 ((List.range kind.words).map (wordAt raw)) = none := by
  rw [examine_map_range, List.find?_range_eq_none]
  intro j hj
  have hgood := firstBad_eq_none.mp hk ⟨j, by rcases words_cases kind with hw | hw <;> omega⟩ hj
  rw [bad_get_pushBytes kind (by simp only; omega)] at hgood
  simp [hgood]

/-- The verdict of a frame, on the ports, is the function's result on the bytes pushed (R96). -/
theorem ports_latchVerdict_pushBytes (kind : FrameKind) (raw : List Byte) :
    ports (latchVerdict (pushBytes raw (startFrame kind))) =
      encResult kind.words (decodeFrame raw kind.words) := by
  have hexp : (pushBytes raw (startFrame kind)).exp = kind := pushBytes_exp raw _
  have hcases := latchVerdict_cases (pushBytes raw (startFrame kind))
  simp only [hexp, ne_eq, cnt_pushBytes_startFrame_eq_iff] at hcases
  rcases hcases with ⟨hlen, he⟩ | ⟨k, hlen, hbad, he⟩ | ⟨hlen, hbad, he⟩ <;> rw [he]
  · rw [ports_raise_framing, decodeFrame_of_wrong_length hlen, encResult]
  · rw [ports_raise_checksum k kind.words,
      decodeFrame_of_wrong_word hlen (examine_of_firstBad_some hlen hbad)]
  · rw [ports_accept (val_get_pushBytes kind raw) (chk_get_pushBytes kind raw), hexp,
      decodeFrame_of_valid_words hlen (examine_of_firstBad_none hlen hbad)]

theorem feed_pseudoFrame_ports (kind : FrameKind) (raw : List Byte) (s : State) :
    ∃ t, feed ((pseudoFrame kind raw).map Event.ofInstr) s = .next t ∧
      ports t.regs = encResult kind.words (decodeFrame raw kind.words) :=
  ⟨_, feed_pseudoFrame kind raw s, ports_latchVerdict_pushBytes kind raw⟩

/-- Settles O52: the expansion is the definition, and its run ends in the verdict on the bytes. -/
theorem pseudoFrameIsDecodeFrame : Obligations.PseudoFrameIsDecodeFrame :=
  ⟨fun _ => rfl, fun _ => rfl, feed_pseudoFrame_ports .measurement, feed_pseudoFrame_ports .status⟩

end Sys2Proof.Machine
end

section
/-! PROOFS. The CRC as an invertible linear map (40_crc8.md R60 to R69): a bit step bit by bit, linearity over
XOR, the table from its single-bit entries, and that only zero goes to zero, so that `crc8` is one to one in
either byte. -/

namespace Sys2Proof.Machine

/-! ## One bit step -/

/-- The bit shifted out comes back in at the low end (R60). -/
theorem crcBitStep_getLsbD_zero (a : Byte) : (crcBitStep a).getLsbD 0 = a.getLsbD 7 := by
  rw [crcBitStep_getLsbD]
  simp [Config.crcPoly]

theorem crcBitStep_getLsbD_succ (a : Byte) {i : Nat} (hi : i + 1 < 8) :
    (crcBitStep a).getLsbD (i + 1) =
      (a.getLsbD i ^^ (a.getLsbD 7 && Config.crcPoly.getLsbD (i + 1))) := by
  rw [crcBitStep_getLsbD, BitVec.getLsbD_shiftLeft]
  simp [hi]

/-- At a tap of the polynomial the feedback joins the lower neighbour (R60). -/
theorem crcBitStep_getLsbD_tap (a : Byte) {i : Nat} (hi : i + 1 < 8)
    (htap : Config.crcPoly.getLsbD (i + 1) = true) :
    (crcBitStep a).getLsbD (i + 1) = (a.getLsbD i ^^ a.getLsbD 7) := by
  rw [crcBitStep_getLsbD_succ a hi, htap, Bool.and_true]

theorem crcBitStep_getLsbD_noTap (a : Byte) {i : Nat} (hi : i + 1 < 8)
    (htap : Config.crcPoly.getLsbD (i + 1) = false) :
    (crcBitStep a).getLsbD (i + 1) = a.getLsbD i := by
  rw [crcBitStep_getLsbD_succ a hi, htap, Bool.and_false, Bool.xor_false]

/-- The 9-bit shift and its mask keep what the 8-bit shift keeps. -/
theorem setWidth_masked_shift (a : Byte) (p : BitVec 9) :
    (((a.setWidth 9 <<< 1) ^^^ p) &&& 0xFF#9).setWidth 8 = (a <<< 1) ^^^ p.setWidth 8 := by
  have hmask : (0xFF#9).setWidth 8 = BitVec.allOnes 8 := rfl
  have hshift : (a.setWidth 9 <<< 1).setWidth 8 = a <<< 1 := by
    refine BitVec.eq_of_getLsbD_eq fun i hi => ?_
    simp [hi]
  rw [BitVec.setWidth_and, hmask, BitVec.and_allOnes, BitVec.setWidth_xor, hshift]

theorem crcBitStep_eq_masked (a : Byte) :
    crcBitStep a =
      (if a.getLsbD 7 then ((a.setWidth 9 <<< 1) ^^^ 0x31#9) &&& 0xFF#9
       else (a.setWidth 9 <<< 1) &&& 0xFF#9).setWidth 8 := by
  have hzero := setWidth_masked_shift a 0#9
  rw [BitVec.xor_zero, BitVec.setWidth_zero, BitVec.xor_zero] at hzero
  rw [apply_ite (BitVec.setWidth 8), setWidth_masked_shift, hzero]
  rfl

/-- Settles O7: bit 0 takes the feedback, every other bit its lower neighbour, with the feedback at a tap. -/
theorem bitStepIsShiftWithFeedback : Obligations.BitStepIsShiftWithFeedback := fun a =>
  ⟨crcBitStep_eq_masked a,
    crcBitStep_getLsbD_noTap a (i := 6) (by decide) rfl, crcBitStep_getLsbD_noTap a (i := 5) (by decide) rfl,
    crcBitStep_getLsbD_tap a (i := 4) (by decide) rfl, crcBitStep_getLsbD_tap a (i := 3) (by decide) rfl,
    crcBitStep_getLsbD_noTap a (i := 2) (by decide) rfl, crcBitStep_getLsbD_noTap a (i := 1) (by decide) rfl,
    crcBitStep_getLsbD_noTap a (i := 0) (by decide) rfl, crcBitStep_getLsbD_zero a⟩

/-- Settles O8: the first four clauses are the definitions' equations, the last is the document's vector. -/
theorem crcIsTwoByteStepsFromFF : Obligations.CrcIsTwoByteStepsFromFF :=
  ⟨crcIter_zero, crcIter_succ, crcByteStep_eq, crc8_eq, by decide +kernel⟩

/-! ## Linearity -/

theorem crcBitStep_xor (a c : Byte) : crcBitStep (a ^^^ c) = crcBitStep a ^^^ crcBitStep c := by
  refine BitVec.eq_of_getLsbD_eq fun i hi => ?_
  cases i with
  | zero => simp only [crcBitStep_getLsbD_zero, BitVec.getLsbD_xor]
  | succ i =>
    simp only [crcBitStep_getLsbD_succ _ hi, BitVec.getLsbD_xor]
    cases Config.crcPoly.getLsbD (i + 1) <;> simp [Bool.xor_left_comm]

theorem crcBitStep_zero : crcBitStep 0#8 = 0#8 := rfl

theorem crcIter_xor (x y : Byte) (i : Nat) : crcIter (x ^^^ y) i = crcIter x i ^^^ crcIter y i := by
  induction i with
  | zero => rfl
  | succ i ih => rw [crcIter_succ, ih, crcBitStep_xor, ← crcIter_succ, ← crcIter_succ]

theorem crcIter_zero_byte (i : Nat) : crcIter 0#8 i = 0#8 := by
  induction i with
  | zero => rfl
  | succ i ih => rw [crcIter_succ, ih, crcBitStep_zero]

theorem crc8_eq_lookups (hi lo : Byte) : crc8 hi lo = crcIter (crcIter (0xFF#8 ^^^ hi) 8 ^^^ lo) 8 := rfl

/-! ## The table from its single-bit entries -/

theorem getLsbD_ite_zero (p : Prop) [Decidable p] (v : Byte) (i : Nat) :
    (if p then v else 0#8).getLsbD i = (decide p && v.getLsbD i) := by
  by_cases h : p <;> simp [h]

/-- A byte is the XOR of its set bits. -/
theorem eq_xor_setBits (x : Byte) :
    x = (if x.getLsbD 0 then 0x01#8 else 0#8) ^^^ (if x.getLsbD 1 then 0x02#8 else 0#8) ^^^
      (if x.getLsbD 2 then 0x04#8 else 0#8) ^^^ (if x.getLsbD 3 then 0x08#8 else 0#8) ^^^
      (if x.getLsbD 4 then 0x10#8 else 0#8) ^^^ (if x.getLsbD 5 then 0x20#8 else 0#8) ^^^
      (if x.getLsbD 6 then 0x40#8 else 0#8) ^^^ (if x.getLsbD 7 then 0x80#8 else 0#8) := by
  refine BitVec.eq_of_getLsbD_eq fun i hi => ?_
  simp only [BitVec.getLsbD_xor, getLsbD_ite_zero]
  interval_cases i <;> simp

theorem crcIter_ite (p : Prop) [Decidable p] (v : Byte) (i : Nat) :
    crcIter (if p then v else 0#8) i = if p then crcIter v i else 0#8 := by
  rw [apply_ite (crcIter · i), crcIter_zero_byte]

/-- By linearity, from the bits that are set in the input (R67). -/
theorem crcIter_eight_eq_xor_entries (x : Byte) :
    crcIter x 8 =
      (if x.getLsbD 0 then 0x31#8 else 0#8) ^^^ (if x.getLsbD 1 then 0x62#8 else 0#8) ^^^
      (if x.getLsbD 2 then 0xC4#8 else 0#8) ^^^ (if x.getLsbD 3 then 0xB9#8 else 0#8) ^^^
      (if x.getLsbD 4 then 0x43#8 else 0#8) ^^^ (if x.getLsbD 5 then 0x86#8 else 0#8) ^^^
      (if x.getLsbD 6 then 0x3D#8 else 0#8) ^^^ (if x.getLsbD 7 then 0x7A#8 else 0#8) := by
  conv_lhs => rw [eq_xor_setBits x]
  simp only [crcIter_xor, crcIter_ite]
  rfl

/-- Settles O9: linearity by induction on the iterations, and the table from its entries at single bits. -/
theorem byteStepIsLinearTable : Obligations.ByteStepIsLinearTable :=
  ⟨crcBitStep_xor, crcBitStep_zero, crcByteStep_eq, fun x y => crcIter_xor x y 8, crcIter_zero_byte 8,
    rfl, rfl, rfl, rfl, rfl, rfl, rfl, rfl, crcIter_eight_eq_xor_entries, crc8_eq_lookups⟩

/-- Settles O10: bit i of the result is the XOR of the input bits whose single-bit entry has bit i set. -/
theorem byteStepIsXorNetwork : Obligations.ByteStepIsXorNetwork := by
  rintro a b x n rfl rfl
  rw [crcByteStep_eq, crcIter_eight_eq_xor_entries]
  generalize a ^^^ b = x
  simp only [BitVec.getLsbD_xor, getLsbD_ite_zero]
  refine ⟨?_, ?_, ?_, ?_, ?_, ?_, ?_, ?_⟩ <;> simp [Bool.xor_comm]

/-! ## Only zero goes to zero -/

theorem crcBitStep_eq_zero_iff {a : Byte} : crcBitStep a = 0#8 ↔ a = 0#8 := by
  refine ⟨fun h => ?_, fun h => h ▸ crcBitStep_zero⟩
  have hbit : ∀ i, (crcBitStep a).getLsbD i = false := fun i => by rw [h, BitVec.getLsbD_zero]
  have hseven : a.getLsbD 7 = false := (crcBitStep_getLsbD_zero a).symm.trans (hbit 0)
  refine BitVec.eq_of_getLsbD_eq fun i hi => ?_
  rw [BitVec.getLsbD_zero]
  obtain rfl | hlt : i = 7 ∨ i + 1 < 8 := by omega
  · exact hseven
  · have hsucc := crcBitStep_getLsbD_succ a hlt
    rwa [hbit, hseven, Bool.false_and, Bool.xor_false, eq_comm] at hsucc

theorem crcIter_eq_zero_iff {x : Byte} {i : Nat} : crcIter x i = 0#8 ↔ x = 0#8 := by
  induction i with
  | zero => rfl
  | succ i ih => rw [crcIter_succ, crcBitStep_eq_zero_iff, ih]

theorem crcIter_inj {x y : Byte} {i : Nat} : crcIter x i = crcIter y i ↔ x = y := by
  rw [← BitVec.xor_eq_zero_iff, ← crcIter_xor, crcIter_eq_zero_iff, BitVec.xor_eq_zero_iff]

theorem crc8_inj_low {hi lo lo' : Byte} : crc8 hi lo = crc8 hi lo' ↔ lo = lo' := by
  rw [crc8_eq_lookups, crc8_eq_lookups, crcIter_inj, BitVec.xor_right_inj]

theorem crc8_inj_high {hi hi' lo : Byte} : crc8 hi lo = crc8 hi' lo ↔ hi = hi' := by
  rw [crc8_eq_lookups, crc8_eq_lookups, crcIter_inj, BitVec.xor_left_inj, crcIter_inj, BitVec.xor_right_inj]

theorem crc8_low_bijective (hi : Byte) : Function.Bijective fun lo : Byte => crc8 hi lo :=
  Finite.injective_iff_bijective.mp fun _ _ h => crc8_inj_low.mp h

/-- Zero residue (R69). -/
theorem crcByteStep_eq_zero_iff {a b : Byte} : crcByteStep a b = 0#8 ↔ b = a := by
  rw [crcByteStep_eq, crcIter_eq_zero_iff, BitVec.xor_eq_zero_iff, eq_comm]

end Sys2Proof.Machine
end

section
/-! PROOFS. Which words share a check byte (40_crc8.md R69, R71, R72): as many for each check byte, never two that
differ in one data byte, and the validator cannot tell them apart. -/

namespace Sys2Proof.Machine

/-! ## The values that share a check byte -/

/-- The values with check byte `c`. -/
def valuesWithCheck (c : Byte) : Finset Value :=
  Finset.univ.filter fun v : Value => crc8 (hiByte v) (loByte v) = c

theorem mem_valuesWithCheck {v : Value} {c : Byte} :
    v ∈ valuesWithCheck c ↔ crc8 (hiByte v) (loByte v) = c := by
  simp [valuesWithCheck]

/-- A value with a given check byte is fixed by its high byte, which is free (R69). -/
theorem card_valuesWithCheck (c : Byte) : (valuesWithCheck c).card = 256 := by
  have hcard : (Finset.univ : Finset Byte).card = 256 := FinEnum.card_eq_fintypeCard.symm
  rw [← hcard]
  refine Finset.card_nbij hiByte (fun _ _ => Finset.mem_coe.mpr (Finset.mem_univ _)) (fun u hu v hv h => ?_)
    (fun hi _ => ?_)
  · rw [Finset.mem_coe, mem_valuesWithCheck] at hu hv
    have hlo : loByte u = loByte v := crc8_inj_low.mp (hu.trans (h ▸ hv.symm))
    rw [← beValue_hiByte_loByte u, ← beValue_hiByte_loByte v, h, hlo]
  · obtain ⟨lo, hlo⟩ := (crc8_low_bijective hi).surjective c
    refine ⟨beValue hi lo, Finset.mem_coe.mpr (mem_valuesWithCheck.mpr ?_), hiByte_beValue hi lo⟩
    rwa [hiByte_beValue, loByte_beValue]

/-- Settles O11: the table is linear and sends only zero to zero, so it and `crc8` in either byte are one to
one; the high byte of a value with a given check byte is free and fixes the low one. -/
theorem checkBytesAreEvenlySpread : Obligations.CheckBytesAreEvenlySpread :=
  ⟨Finite.injective_iff_bijective.mp fun _ _ h => crcIter_inj.mp h, crc8_low_bijective,
    fun _ => Finite.injective_iff_bijective.mp fun _ _ h => crc8_inj_high.mp h,
    card_valuesWithCheck, fun _ _ _ => crcByteStep_eq_zero_iff⟩

/-! ## Corruption and collisions -/

theorem crc8_xor_high (hi lo e : Byte) : crc8 (hi ^^^ e) lo = crc8 hi lo ^^^ crcIter (crcIter e 8) 8 := by
  have hswap : crcIter (0xFF#8 ^^^ (hi ^^^ e)) 8 ^^^ lo = (crcIter (0xFF#8 ^^^ hi) 8 ^^^ lo) ^^^ crcIter e 8 := by
    rw [← BitVec.xor_assoc, crcIter_xor]
    ac_rfl
  rw [crc8_eq_lookups, hswap, crcIter_xor, ← crc8_eq_lookups]

theorem crc8_xor_low (hi lo e : Byte) : crc8 hi (lo ^^^ e) = crc8 hi lo ^^^ crcIter e 8 := by
  rw [crc8_eq_lookups, ← BitVec.xor_assoc, crcIter_xor, ← crc8_eq_lookups]

/-- Settles O13: `crc8` is one to one in either data byte, and a change of one goes through the table. -/
theorem singleByteCorruptionIsCaught : Obligations.SingleByteCorruptionIsCaught := by
  rintro hi lo c rfl
  refine ⟨fun _ h => h.symm, fun _ h => mt crc8_inj_high.mp h, fun _ h => mt crc8_inj_low.mp h,
    crc8_xor_high hi lo, crc8_xor_low hi lo, fun e he => ?_⟩
  have hentry : crcIter e 8 ≠ 0#8 := mt crcIter_eq_zero_iff.mp he
  exact ⟨hentry, mt crcIter_eq_zero_iff.mp hentry⟩

theorem filter_collisions_eq_erase (v : Value) :
    (Finset.univ.filter fun u : Value => u ≠ v ∧ crc8 (hiByte u) (loByte u) = crc8 (hiByte v) (loByte v)) =
      (valuesWithCheck (crc8 (hiByte v) (loByte v))).erase v := by
  ext u
  simp [mem_valuesWithCheck]

theorem beValue_toNat (hi lo : Byte) : (beValue hi lo).toNat = 256 * hi.toNat + lo.toNat := by
  rw [beValue, BitVec.toNat_append, ← Nat.shiftLeft_add_eq_or_of_lt lo.isLt, Nat.shiftLeft_eq, Nat.mul_comm]

theorem crc8_zero : crc8 0x00#8 0x00#8 = 0x81#8 := by decide +kernel

theorem crc8_smallest_collision : crc8 0x01#8 0x31#8 = 0x81#8 := by decide +kernel

/-- Below 0x0131 the high byte is 0 or 1, and `crc8` is one to one in the low byte (R72). -/
theorem crc8_ne_of_lt_smallest {hi lo : Byte} (hpos : 0 < 256 * hi.toNat + lo.toNat)
    (hlt : 256 * hi.toNat + lo.toNat < 0x0131) : crc8 hi lo ≠ 0x81#8 := by
  obtain h | h : hi.toNat = 0 ∨ hi.toNat = 1 := by omega
  · obtain rfl : hi = 0x00#8 := BitVec.eq_of_toNat_eq h
    rw [← crc8_zero, ne_eq, crc8_inj_low]
    rintro rfl
    simp at hpos
  · obtain rfl : hi = 0x01#8 := BitVec.eq_of_toNat_eq h
    rw [← crc8_smallest_collision, ne_eq, crc8_inj_low]
    rintro rfl
    simp at hlt

theorem decodeFrame_valid_word {hi lo c : Byte} (h : crc8 hi lo = c) :
    decodeFrame [hi, lo, c] 1 = .ok [⟨beValue hi lo, c⟩] :=
  decodeFrame_of_valid_words (raw := [hi, lo, c]) (n := 1) rfl (by
    simp [wordAt, examine_cons, valid_beValue, h, examine])

/-- Settles O14: the 256 values of a check byte less the value itself; 0x0131 by injectivity in the low byte. -/
theorem collisionsPassUnnoticed : Obligations.CollisionsPassUnnoticed := by
  refine ⟨fun v => ?_, crc8_zero, crc8_smallest_collision, fun v hpos hlt => ?_, fun _ _ _ => decodeFrame_valid_word⟩
  · rw [filter_collisions_eq_erase, Finset.card_erase_of_mem (mem_valuesWithCheck.mpr rfl), card_valuesWithCheck]
  · rw [← beValue_hiByte_loByte v, beValue_toNat] at hpos hlt
    exact crc8_ne_of_lt_smallest hpos hlt

end Sys2Proof.Machine
end

section
/-! PROOFS. The CRC as long division over GF(2) (40_crc8.md R70): each bit step multiplies by x and reduces, so the
byte step and `crc8` leave remainders modulo g; a multiple of g that fits a byte is zero, so no other byte is one. -/

namespace Sys2Proof.Machine

/-! ## Products with g -/

theorem timesG_xor (q p : BitVec 16) : timesG (q ^^^ p) = timesG q ^^^ timesG p := by
  simp only [timesG, BitVec.setWidth_xor, BitVec.shiftLeft_xor_distrib]
  ac_rfl

theorem timesG_zero : timesG 0#16 = 0#24 := rfl

/-- A shift in the wider word keeps the bit that the narrow one drops. -/
theorem setWidth_shiftLeft_one {w : Nat} (x : BitVec (w + 1)) :
    x.setWidth 24 <<< 1 = (x <<< 1).setWidth 24 ^^^ (if x.getLsbD w then BitVec.twoPow 24 (w + 1) else 0#24) := by
  refine BitVec.eq_of_getLsbD_eq fun i hi => ?_
  have hpred : i - 1 < 24 := by omega
  rw [BitVec.getLsbD_xor, BitVec.getLsbD_shiftLeft, BitVec.getLsbD_setWidth, BitVec.getLsbD_setWidth,
    BitVec.getLsbD_shiftLeft, apply_ite (BitVec.getLsbD · i), BitVec.getLsbD_twoPow, BitVec.getLsbD_zero]
  obtain hlt | rfl | hgt := Nat.lt_trichotomy i (w + 1)
  · simp [hi, hpred, hlt, hlt.ne']
  · rw [Nat.add_sub_cancel]
    cases x.getLsbD w <;> simp [hi, Nat.lt_of_succ_lt hi]
  · have hhigh : x.getLsbD (i - 1) = false := BitVec.getLsbD_of_ge x (i - 1) (by omega)
    simp [hhigh, hgt.ne]

theorem timesG_shiftLeft_one {q : BitVec 16} (h : q.getLsbD 15 = false) : timesG (q <<< 1) = timesG q <<< 1 := by
  have hwide : q.setWidth 24 <<< 1 = (q <<< 1).setWidth 24 := by
    rw [setWidth_shiftLeft_one, h, if_neg Bool.false_ne_true, BitVec.xor_zero]
  simp only [timesG, ← hwide, BitVec.shiftLeft_xor_distrib, ← BitVec.shiftLeft_add, Nat.add_comm 1]

theorem getLsbD_setWidth_shiftLeft (q : BitVec 16) {i n : Nat} (hi : i < 16) (hn : n ≤ 8) :
    (q.setWidth 24 <<< n).getLsbD (i + 8) = q.getLsbD (i + (8 - n)) := by
  have hbit : i + 8 < 24 := by omega
  have hshift : ¬ i + 8 < n := by omega
  have hplace : i + (8 - n) < 24 := by omega
  rw [BitVec.getLsbD_shiftLeft, BitVec.getLsbD_setWidth, Nat.add_sub_assoc hn]
  simp only [hbit, hshift, hplace, decide_true, decide_false, Bool.not_false, Bool.true_and]

/-- A coefficient of a product from x^8 on: the quotient's own, and what the lower terms of g carry up to it. -/
theorem timesG_getLsbD_add_eight (q : BitVec 16) {i : Nat} (h : i < 16) :
    (timesG q).getLsbD (i + 8) =
      (q.getLsbD i ^^ q.getLsbD (i + 3) ^^ q.getLsbD (i + 4) ^^ q.getLsbD (i + 8)) := by
  have hown : (q.setWidth 24).getLsbD (i + 8) = q.getLsbD (i + 8) := by
    rw [← BitVec.shiftLeft_zero (q.setWidth 24), getLsbD_setWidth_shiftLeft q h (Nat.zero_le 8)]
  rw [timesG, BitVec.getLsbD_xor, BitVec.getLsbD_xor, BitVec.getLsbD_xor, hown,
    getLsbD_setWidth_shiftLeft q h (by decide), getLsbD_setWidth_shiftLeft q h (by decide),
    getLsbD_setWidth_shiftLeft q h (by decide)]
  rfl

/-- A multiple of g that fits a byte is zero: its quotient's coefficients vanish from the highest down. -/
theorem eq_zero_of_timesG_eq_byte {q : BitVec 16} {r : Byte} (h : timesG q = r.setWidth 24) : q = 0#16 := by
  have hdeg : ∀ n i, 16 ≤ i + n → q.getLsbD i = false := by
    intro n
    induction n with
    | zero => exact fun i hi => BitVec.getLsbD_of_ge q i hi
    | succ n ih =>
      intro i hi
      obtain hlt | hge := Nat.lt_or_ge i 16
      · have hbit := timesG_getLsbD_add_eight q hlt
        rw [h, BitVec.getLsbD_setWidth, BitVec.getLsbD_of_ge r (i + 8) (by omega), Bool.and_false,
          ih (i + 3) (by omega), ih (i + 4) (by omega), ih (i + 8) (by omega)] at hbit
        simpa using hbit.symm
      · exact BitVec.getLsbD_of_ge q i hge
  exact BitVec.eq_of_getLsbD_eq fun i _ => (hdeg 16 i (by omega)).trans BitVec.getLsbD_zero.symm

/-! ## Remainders -/

/-- `r` is a remainder of `p` modulo g, with a quotient of degree below `n` (R70). -/
def IsRemainder (n : Nat) (p : BitVec 24) (r : Byte) : Prop :=
  ∃ q : BitVec 16, (∀ i, n ≤ i → q.getLsbD i = false) ∧ timesG q ^^^ r.setWidth 24 = p

theorem isRemainder_byte (b : Byte) : IsRemainder 0 (b.setWidth 24) b :=
  ⟨0#16, fun _ _ => BitVec.getLsbD_zero, by rw [timesG_zero, BitVec.zero_xor]⟩

/-- A byte XORed in changes only coefficients below x^8, the remainder's own. -/
theorem IsRemainder.xor_byte {n : Nat} {p : BitVec 24} {r : Byte} (h : IsRemainder n p r) (b : Byte) :
    IsRemainder n (p ^^^ b.setWidth 24) (r ^^^ b) := by
  obtain ⟨q, hq, rfl⟩ := h
  exact ⟨q, hq, by rw [BitVec.setWidth_xor, BitVec.xor_assoc]⟩

/-- The quotient of one bit step: g is subtracted when the bit shifted out is 1 (R60). -/
def feedback (a : Byte) : BitVec 16 := if a.getLsbD 7 then 1#16 else 0#16

theorem feedback_getLsbD_succ (a : Byte) (i : Nat) : (feedback a).getLsbD (i + 1) = false := by
  unfold feedback
  split <;> simp

theorem shiftLeft_one_eq_crcBitStep (a : Byte) :
    a.setWidth 24 <<< 1 = timesG (feedback a) ^^^ (crcBitStep a).setWidth 24 := by
  rw [setWidth_shiftLeft_one, feedback, crcBitStep]
  cases a.getLsbD 7 with
  | false => simp [timesG_zero]
  | true =>
    have hg : BitVec.twoPow 24 8 = timesG 1#16 ^^^ Config.crcPoly.setWidth 24 := by decide
    simp only [if_true, hg, BitVec.setWidth_xor]
    ac_rfl

theorem IsRemainder.crcBitStep {n : Nat} {p : BitVec 24} {r : Byte} (h : IsRemainder n p r) (hn : n < 16) :
    IsRemainder (n + 1) (p <<< 1) (crcBitStep r) := by
  obtain ⟨q, hq, rfl⟩ := h
  refine ⟨q <<< 1 ^^^ feedback r, fun i hi => ?_, ?_⟩
  · obtain ⟨j, rfl⟩ : ∃ j, i = j + 1 := ⟨i - 1, by omega⟩
    simp [feedback_getLsbD_succ, hq j (by omega)]
  · rw [timesG_xor, timesG_shiftLeft_one (hq 15 (by omega)), BitVec.shiftLeft_xor_distrib,
      shiftLeft_one_eq_crcBitStep, BitVec.xor_assoc]

theorem IsRemainder.crcIter {n : Nat} {p : BitVec 24} {r : Byte} (h : IsRemainder n p r) {i : Nat}
    (hi : n + i ≤ 16) : IsRemainder (n + i) (p <<< i) (crcIter r i) := by
  induction i with
  | zero => rwa [Nat.add_zero, BitVec.shiftLeft_zero]
  | succ i ih =>
    rw [BitVec.shiftLeft_add]
    exact (ih (by omega)).crcBitStep (by omega)

theorem isRemainder_crcByteStep (a b : Byte) :
    IsRemainder 8 ((a ^^^ b).setWidth 24 <<< 8) (crcByteStep a b) :=
  (isRemainder_byte (a ^^^ b)).crcIter (i := 8) (by decide)

theorem isRemainder_crc8 (hi lo : Byte) :
    IsRemainder 16 (((hi ^^^ 0xFF#8).setWidth 24 <<< 16) ^^^ (lo.setWidth 24 <<< 8)) (crc8 hi lo) := by
  have h := ((isRemainder_crcByteStep 0xFF#8 hi).xor_byte lo).crcIter (i := 8) (by decide)
  rwa [BitVec.shiftLeft_xor_distrib, ← BitVec.shiftLeft_add, BitVec.xor_comm 0xFF#8 hi] at h

/-- Two remainders of one polynomial differ by a multiple of g that fits a byte, so they are equal. -/
theorem remainder_unique {q q' : BitVec 16} {r r' : Byte}
    (h : timesG q ^^^ r.setWidth 24 = timesG q' ^^^ r'.setWidth 24) : r = r' := by
  have hdiff : timesG (q ^^^ q') = (r ^^^ r').setWidth 24 := by
    rw [timesG_xor, BitVec.setWidth_xor, ← BitVec.xor_eq_zero_iff, ← BitVec.xor_eq_zero_iff.mpr h]
    ac_rfl
  have hq : q = q' := BitVec.xor_eq_zero_iff.mp (eq_zero_of_timesG_eq_byte hdiff)
  rw [hq, BitVec.xor_right_inj] at h
  simpa using congrArg (BitVec.setWidth 8) h

/-- A remainder is the only byte a multiple of g away. -/
theorem IsRemainder.eq_iff {n : Nat} {p : BitVec 24} {r : Byte} (h : IsRemainder n p r) (r' : Byte) :
    r' = r ↔ ∃ q : BitVec 16, timesG q ^^^ r'.setWidth 24 = p := by
  obtain ⟨q, -, rfl⟩ := h
  exact ⟨fun h => ⟨q, h ▸ rfl⟩, fun ⟨_, h⟩ => remainder_unique h⟩

/-- Settles O12: the iterations are a long division by g, and its remainder is the only one. -/
theorem crcIsPolynomialRemainder : Obligations.CrcIsPolynomialRemainder :=
  ⟨fun a b => (isRemainder_crcByteStep a b).eq_iff, fun hi lo => (isRemainder_crc8 hi lo).eq_iff⟩

end Sys2Proof.Machine
end

section
/-! PROOFS. The generator: GEN sets the level on g_in and nothing else, and g_crc is `crc8` of it (40_crc8.md R64). -/

namespace Sys2Proof.Machine

theorem gCrc_setGIn_beValue (hi lo : Byte) (s : State) : gCrc (s.setGIn (beValue hi lo)) = crc8 hi lo := by
  rw [gCrc, State.setGIn_gIn, hiByte_beValue, loByte_beValue]

theorem setGIn_setGIn (s : State) (x y : Value) : (s.setGIn x).setGIn y = s.setGIn y := rfl

/-- Settles O15: GEN's step is `setGIn` of its two bytes, which `gCrc` reads back. -/
theorem genGivesTheCheckByte : Obligations.GenGivesTheCheckByte :=
  ⟨decodeG_append,
    fun hi lo s => ⟨s.setGIn (beValue hi lo), exec_gen hi lo s, gCrc_setGIn_beValue hi lo s, rfl, rfl, rfl, by
      rw [exec_gen, setGIn_setGIn]⟩,
    fun _ => rfl, crc8_zero, by decide +kernel⟩

end Sys2Proof.Machine
end

section
/-! PROOFS. The validator's operations one by one (41_validator.md R82 to R86): PUSH at each place of a word and past
the last one, and END at each verdict. -/

namespace Sys2Proof.Machine

/-! ## PUSH, place by place -/

theorem pushByte_of_offset {r : Registers} {o : Fin 9} (h : r.cnt.toNat = o.val) (b : Byte) :
    pushByte b r = (checkByte o b (frameWrite o b r)).setCnt (nextCnt r.cnt) := by
  simp only [pushByte, storeOffset_eq_some.mpr h]

theorem pushByte_past_nine {r : Registers} (h : 9 ≤ r.cnt.toNat) (b : Byte) :
    pushByte b r = r.setCnt (nextCnt r.cnt) := by
  simp only [pushByte, storeOffset_eq_none.mpr h]

theorem pushByte_high {r : Registers} {k : Fin 3} (h : r.cnt.toNat = 3 * k.val) (b : Byte) :
    pushByte b r =
      { r with
        val := r.val.set k (beValue b (loByte (r.val.get k)))
        acc := crcByteStep 0xFF#8 b
        cnt := nextCnt r.cnt } := by
  have ho : (⟨3 * k.val, by omega⟩ : Fin 9).val = 3 * k.val := rfl
  rw [pushByte_of_offset (h.trans ho.symm), frameWrite_high ho, checkByte, posOf_high.mpr (by simp only; omega)]
  rfl

theorem pushByte_low {r : Registers} {k : Fin 3} (h : r.cnt.toNat = 3 * k.val + 1) (b : Byte) :
    pushByte b r =
      { r with
        val := r.val.set k (beValue (hiByte (r.val.get k)) b)
        acc := crcByteStep r.acc b
        cnt := nextCnt r.cnt } := by
  have ho : (⟨3 * k.val + 1, by omega⟩ : Fin 9).val = 3 * k.val + 1 := rfl
  rw [pushByte_of_offset (h.trans ho.symm), frameWrite_low ho, checkByte, posOf_low.mpr (by simp only; omega)]
  rfl

theorem pushByte_check {r : Registers} {k : Fin 3} (h : r.cnt.toNat = 3 * k.val + 2) (b : Byte) :
    pushByte b r =
      { r with
        chk := r.chk.set k b
        bad := r.bad.set k (b != r.acc)
        cnt := nextCnt r.cnt } := by
  have ho : (⟨3 * k.val + 2, by omega⟩ : Fin 9).val = 3 * k.val + 2 := rfl
  rw [pushByte_of_offset (h.trans ho.symm), frameWrite_check ho, checkByte, posOf_check.mpr (by simp only; omega),
    wordOf_eq (k := k) (by simp only; omega)]
  rfl

theorem exec_push_eq {b : Byte} {s : State} {r : Registers} (hr : s.regs.res = .none)
    (h : pushByte b s.regs = r) : exec (.push b) s = .next (s.setRegs r) :=
  h ▸ exec_push_collecting hr

/-- Settles O21: CNT's word and place choose the registers that a push writes. -/
theorem pushStoresChecksAndCounts : Obligations.PushStoresChecksAndCounts :=
  ⟨decodeV_append 0b10#2, fun b _ => ⟨exec_push_done, fun hr h => exec_push_eq hr (pushByte_past_nine h b),
    fun _ hr => ⟨fun h => exec_push_eq hr (pushByte_high h b), fun h => exec_push_eq hr (pushByte_low h b),
      fun h => exec_push_eq hr (pushByte_check h b)⟩⟩⟩

/-- Neither kind of frame expects more than nine bytes, far below the cut-off of CNT (R85, R97). -/
theorem bytes_le_nine (kind : FrameKind) : kind.bytes ≤ 9 := by
  cases kind <;> decide

/-- Settles O24: past nine a push only counts, so CNT is above every expected count when END compares. -/
theorem pushPastNineOnlyCounts : Obligations.PushPastNineOnlyCounts := by
  intro b r s hr hnine
  have hcnt : 10 ≤ (nextCnt s.regs.cnt).toNat := by rw [nextCnt_toNat]; omega
  have hwrong : (nextCnt s.regs.cnt).toNat ≠ s.regs.exp.bytes := by
    have := bytes_le_nine s.regs.exp
    omega
  refine ⟨_, exec_push_eq hr (pushByte_past_nine hnine b), rfl, hcnt, _, exec_endFrame_collecting hr, ?_⟩
  rw [State.setRegs_regs, State.setRegs_regs,
    latchVerdict_of_wrong_count (r := s.regs.setCnt (nextCnt s.regs.cnt)) hwrong]
  rfl

/-! ## PUSH does not read EXP -/

theorem frameWrite_setExp (o : Fin 9) (b : Byte) (r : Registers) (k : FrameKind) :
    frameWrite o b (r.setExp k) = (frameWrite o b r).setExp k := by
  unfold frameWrite; cases posOf o <;> rfl

theorem checkByte_setExp (o : Fin 9) (b : Byte) (r : Registers) (k : FrameKind) :
    checkByte o b (r.setExp k) = (checkByte o b r).setExp k := by
  unfold checkByte; cases posOf o <;> rfl

theorem pushByte_setExp (b : Byte) (r : Registers) (k : FrameKind) :
    pushByte b (r.setExp k) = (pushByte b r).setExp k := by
  rcases pushByte_cases b r with ⟨o, hc, h⟩ | ⟨hc, h⟩
  · rw [h, pushByte_of_offset (r := r.setExp k) hc, frameWrite_setExp, checkByte_setExp]
    rfl
  · rw [h, pushByte_past_nine (r := r.setExp k) hc]
    rfl

/-- Settles O25: no part of a push reads EXP, and a status frame of more than three bytes has a wrong count. -/
theorem pushIgnoresFrameKind : Obligations.PushIgnoresFrameKind := by
  refine ⟨fun b k s => ?_, fun r s hr hexp hcnt => ⟨_, exec_endFrame_collecting hr, ?_⟩⟩
  · by_cases hr : s.regs.res = .none
    · exact ⟨_, exec_push_collecting hr,
        exec_push_eq (s := s.setRegs (s.regs.setExp k)) hr (pushByte_setExp b s.regs k)⟩
    · exact ⟨s, exec_push_done hr, exec_push_done hr⟩
  · have hwrong : s.regs.cnt.toNat ≠ s.regs.exp.bytes := by
      rw [hexp, bytes_eq]
      exact hcnt.ne'
    rw [State.setRegs_regs, latchVerdict_of_wrong_count hwrong, ports_raise_framing]

/-! ## END, verdict by verdict -/

theorem latchVerdict_of_firstBad {r : Registers} {k : Fin 3} (hc : r.cnt.toNat = r.exp.bytes)
    (hk : firstBad r.exp r.bad = some k) : latchVerdict r = raise (.checksum k) r := by
  simp [latchVerdict, endException, hc, hk]

theorem latchVerdict_of_no_bad {r : Registers} (hc : r.cnt.toNat = r.exp.bytes)
    (hk : firstBad r.exp r.bad = none) : latchVerdict r = accept r := by
  simp [latchVerdict, endException, hc, hk]

theorem exec_endFrame_eq {d : Byte} {s : State} {r : Registers} (hr : s.regs.res = .none)
    (h : latchVerdict s.regs = r) : exec (.endFrame d) s = .next (s.setRegs r) :=
  h ▸ exec_endFrame_collecting hr

theorem words_eq (kind : FrameKind) : kind.words = if kind = .measurement then 3 else 1 := by
  cases kind <;> rfl

/-- Settles O26: END compares the count first, then takes the lowest flag of an examined word. -/
theorem endLatchesTheVerdict : Obligations.EndLatchesTheVerdict := by
  refine ⟨decodeV_append 0b11#2, fun d s n hn => ?_⟩
  obtain rfl : n = s.regs.exp.words := hn.trans (words_eq _).symm
  have hwords := words_cases s.regs.exp
  refine ⟨exec_endFrame_done, fun hr hc => exec_endFrame_eq hr (latchVerdict_of_wrong_count hc),
    fun hr hc h0 => ?_, fun hr hc h0 h3 h1 => ?_, fun hr hc h0 h3 h1 h2 => ?_, fun hr hc h0 h12 => ?_⟩
  · have hk : firstBad s.regs.exp s.regs.bad = some 0 :=
      firstBad_eq_some.mpr ⟨by simp only [Fin.val_zero]; omega, h0, fun j hj => absurd hj j.not_lt_zero⟩
    exact exec_endFrame_eq hr (latchVerdict_of_firstBad hc hk)
  · have hk : firstBad s.regs.exp s.regs.bad = some 1 :=
      firstBad_eq_some.mpr ⟨by simp [h3], h1, fun | 0, _ => h0⟩
    exact exec_endFrame_eq hr (latchVerdict_of_firstBad hc hk)
  · have hk : firstBad s.regs.exp s.regs.bad = some 2 :=
      firstBad_eq_some.mpr ⟨by simp [h3], h2, fun | 0, _ => h0 | 1, _ => h1⟩
    exact exec_endFrame_eq hr (latchVerdict_of_firstBad hc hk)
  · have hk : firstBad s.regs.exp s.regs.bad = none := firstBad_eq_none.mpr fun
      | 0, _ => h0
      | 1, hlt => (h12 (by simp only [Fin.val_one] at hlt; omega)).1
      | 2, hlt => (h12 (by simp only [Fin.val_two] at hlt; omega)).2
    exact exec_endFrame_eq hr (latchVerdict_of_no_bad hc hk)

theorem latchVerdict_writes (r : Registers) : ∃ v i, latchVerdict r = (r.setRes v).setIdx i := by
  rcases latchVerdict_cases r with ⟨_, h⟩ | ⟨k, _, _, h⟩ | ⟨_, _, h⟩ <;> exact ⟨_, _, h⟩

/-- Settles O27: END writes RES and IDX at most, IDLE nothing, GEN the level on g_in. -/
theorem endIdleGenFrame : Obligations.EndIdleGenFrame := by
  refine ⟨fun d s t ht => ?_, fun r s t ht => ?_, fun hi lo s t ht => ?_⟩
  · by_cases hr : s.regs.res = .none
    · obtain ⟨v, i, hv⟩ := latchVerdict_writes s.regs
      rw [exec_endFrame_eq hr hv] at ht
      cases ht
      exact ⟨fun o => frameCell_congr rfl rfl o, rfl, rfl, rfl, rfl, rfl, rfl, rfl, rfl⟩
    · rw [exec_endFrame_done hr] at ht
      cases ht
      exact ⟨fun _ => rfl, rfl, rfl, rfl, rfl, rfl, rfl, rfl, rfl⟩
  · cases ht
    exact ⟨rfl, fun _ => rfl, rfl, rfl⟩
  · cases ht
    exact ⟨rfl, fun _ => rfl, rfl⟩

end Sys2Proof.Machine
end
section
/-! PROOFS. What a sequence of pin events does to the registers, as a function of the registers alone: the level on
g_in and the events still to come have no part in it (41_validator.md R79, R80; 40_crc8.md R64). -/

namespace Sys2Proof.Machine

/-! ## One pin event -/

/-- What an operation does to the registers (`exec_regs`). -/
def execRegs (i : Instr) (r : Registers) : Registers :=
  match i with
  | .idle _ | .gen _ _ => r
  | .beginFrame _ sel => startFrame sel
  | .push b => if r.res = .none then pushByte b r else r
  | .endFrame _ => if r.res = .none then latchVerdict r else r

/-- What a pin event does to the registers (`sampleEvent_regs`). -/
def Event.onRegs (e : Event) (r : Registers) : Registers :=
  match e.instr? with
  | none => Registers.reset
  | some i => execRegs i r

theorem execRegs_push {b : Byte} {r : Registers} (hr : r.res = .none) :
    execRegs (.push b) r = pushByte b r := if_pos hr

theorem execRegs_push_done {b : Byte} {r : Registers} (hr : r.res ≠ .none) :
    execRegs (.push b) r = r := if_neg hr

theorem execRegs_endFrame {d : Byte} {r : Registers} (hr : r.res = .none) :
    execRegs (.endFrame d) r = latchVerdict r := if_pos hr

theorem execRegs_endFrame_done {d : Byte} {r : Registers} (hr : r.res ≠ .none) :
    execRegs (.endFrame d) r = r := if_neg hr

theorem exec_regs {i : Instr} {s t : State} (h : exec i s = .next t) : t.regs = execRegs i s.regs := by
  rcases exec_cases h with ⟨_, rfl, rfl⟩ | ⟨_, _, rfl, rfl⟩ | ⟨_, rfl, hr, rfl⟩ | ⟨_, rfl, hr, rfl⟩ |
    ⟨_, rfl, hr, rfl⟩ | ⟨_, rfl, hr, rfl⟩ | ⟨_, _, rfl, rfl⟩
  · rfl
  · rfl
  · exact (execRegs_push_done hr).symm
  · exact (execRegs_push hr).symm
  · exact (execRegs_endFrame_done hr).symm
  · exact (execRegs_endFrame hr).symm
  · rfl

theorem Event.onRegs_of_instr {e : Event} {i : Instr} (h : e.instr? = some i) (r : Registers) :
    e.onRegs r = execRegs i r := by
  simp only [Event.onRegs, h]

theorem sampleEvent_regs {e : Event} {s t : State} (h : sampleEvent e s = .next t) :
    t.regs = e.onRegs s.regs := by
  cases he : e.instr? with
  | none =>
    obtain ⟨w, rfl⟩ := instr?_eq_none.mp he
    rw [sampleEvent_reset] at h
    cases h
    rfl
  | some i =>
    rw [sampleEvent_instr he] at h
    rw [Event.onRegs_of_instr he, exec_regs h]

/-- A reset step and BEGIN write every register and read none (R81, 70_reset_and_hazards.md R120). -/
theorem Event.onRegs_of_starts {e : Event} {k : FrameKind} (h : e.starts? = some k) (r : Registers) :
    e.onRegs r = startFrame k :=
  (sampleEvent_regs (sampleEvent_starts h ⟨r, 0x0000#16, []⟩)).symm

/-- An event that starts no frame presents an operation other than BEGIN. -/
theorem instr_of_starts?_eq_none {e : Event} (h : e.starts? = none) :
    ∃ i, e.instr? = some i ∧ ∀ r sel, i ≠ .beginFrame r sel := by
  cases he : e.instr? with
  | none =>
    obtain ⟨w, rfl⟩ := instr?_eq_none.mp he
    cases h
  | some i =>
    refine ⟨i, rfl, ?_⟩
    rintro r sel rfl
    match e, he with
    | .edge false w, he => simp [Event.starts?, he] at h
    | .drive x, he => simp [Event.starts?, he] at h

/-- Under a verdict PUSH and END are ignored, and IDLE and GEN write no register (R87). -/
theorem Event.onRegs_of_done {e : Event} {r : Registers} (h : e.starts? = none) (hr : r.res ≠ .none) :
    e.onRegs r = r := by
  obtain ⟨i, hi, hbegin⟩ := instr_of_starts?_eq_none h
  rw [Event.onRegs_of_instr hi]
  cases i with
  | idle _ | gen _ _ => rfl
  | beginFrame r sel => exact absurd rfl (hbegin r sel)
  | push _ => exact execRegs_push_done hr
  | endFrame _ => exact execRegs_endFrame_done hr

/-! ## A sequence of pin events -/

/-- The registers after these pin events (`run_events`, `feed_regs`). -/
def regsAfter (es : List Event) (r : Registers) : Registers :=
  es.foldl (fun r e => e.onRegs r) r

@[simp] theorem regsAfter_nil (r : Registers) : regsAfter [] r = r := rfl

@[simp] theorem regsAfter_cons (e : Event) (es : List Event) (r : Registers) :
    regsAfter (e :: es) r = regsAfter es (e.onRegs r) := rfl

@[simp] theorem regsAfter_append (es es' : List Event) (r : Registers) :
    regsAfter (es ++ es') r = regsAfter es' (regsAfter es r) := List.foldl_append

/-- One step takes the next event off the list and does to the registers what that event does. -/
theorem step_event {e : Event} {rest : List Event} {s : State} (h : s.inputs = e :: rest) :
    ∃ t, step s = .next t ∧ t.inputs = rest ∧ t.regs = e.onRegs s.regs := by
  obtain ⟨t, ht⟩ := sampleEvent_next e (s.setInputs rest)
  exact ⟨t, (step_cons h).trans ht, sampleEvent_inputs ht, by rw [sampleEvent_regs ht, State.setInputs_regs]⟩

theorem run_events {es rest : List Event} {s : State} (h : s.inputs = es ++ rest) :
    ∃ t, run es.length s = .next t ∧ t.inputs = rest ∧ t.regs = regsAfter es s.regs := by
  induction es generalizing s with
  | nil => exact ⟨s, run_zero s, h, rfl⟩
  | cons e es ih =>
    obtain ⟨u, hstep, hinputs, hregs⟩ := step_event h
    obtain ⟨t, hrun, ht⟩ := ih hinputs
    refine ⟨t, (run_succ_next hstep).trans hrun, ?_⟩
    rwa [regsAfter_cons, ← hregs]

theorem feed_regs (es : List Event) (s : State) : ∃ t, feed es s = .next t ∧ t.regs = regsAfter es s.regs := by
  obtain ⟨t, hrun, -, hregs⟩ := run_events (es := es) (rest := []) (s := s.given es) (List.append_nil es).symm
  exact ⟨t, hrun, hregs⟩

/-! ## IDLE and GEN have no part -/

theorem regsAfter_acting (es : List Event) (r : Registers) : regsAfter (acting es) r = regsAfter es r := by
  induction es generalizing r with
  | nil => rfl
  | cons e es ih =>
    rw [regsAfter_cons, ← ih, acting, List.filter_cons]
    cases he : e.instr? with
    | none => rfl
    | some i =>
      rw [Event.onRegs_of_instr he]
      cases i with
      | idle _ | gen _ _ => rfl
      | beginFrame _ _ | push _ | endFrame _ => rw [← Event.onRegs_of_instr he]; rfl

/-- An event that leaves every state as it is may stand anywhere in a sequence. -/
theorem feed_insert {e : Event} (he : ∀ s, sampleEvent e s = .next s) (before after : List Event) (s : State) :
    feed (before ++ e :: after) s = feed (before ++ after) s := by
  induction before generalizing s with
  | nil => exact feed_cons (he s)
  | cons e' before ih =>
    obtain ⟨t, ht⟩ := sampleEvent_next e' s
    rw [List.cons_append, List.cons_append, feed_cons ht, feed_cons ht, ih]

/-! ## The step -/

/-- Settles O37: the operation code of v_cmd takes one of four values, and every operation has an answer. -/
theorem stepIsTotalAndSelectsOneOperation : Obligations.StepIsTotalAndSelectsOneOperation := by
  refine ⟨fun s => ?_, fun w rest s => ⟨fun hs => step_cons hs, fun hs => ?_⟩⟩
  · cases hs : s.inputs with
    | nil => exact ⟨s, step_nil hs⟩
    | cons e rest =>
      obtain ⟨t, hstep, -⟩ := step_event hs
      exact ⟨t, hstep⟩
  · have hstep : step s = exec (decode (.v w)) { s with inputs := rest } := step_cons hs
    have hop : w.extractLsb' 8 2 = opField w := rfl
    rw [hstep, decode_of_opField, hop]
    refine ⟨fun h => ?_, fun h => ?_, fun h => ?_, fun h => ?_⟩ <;> rw [h] <;> rfl

/-- Settles O38: the word on either port is decoded, and the encoder's word decodes to its operation. -/
theorem stepRunsTheDecodedInstruction : Obligations.StepRunsTheDecodedInstruction := by
  refine ⟨fun i p rest s hp hs => ?_, fun i rest s hs => ?_, fun s => step_nil⟩
  · rw [step_cons hs, sampleEvent_ofPortWord, hp]
    rfl
  · rw [step_cons hs, sampleEvent_ofInstr]
    rfl

/-! ## IDLE, BEGIN and the done block -/

/-- Settles O19: IDLE leaves the state as it is, so the events after it start from the same state. -/
theorem idleChangesNothing : Obligations.IdleChangesNothing :=
  ⟨decodeV_append 0b00#2, exec_idle, fun r => feed_insert fun s => sampleEvent_ofInstr (.idle r) s⟩

/-- Settles O20: BEGIN's registers do not depend on those before, nor does what a run makes of them. -/
theorem beginStartsFresh : Obligations.BeginStartsFresh := by
  refine ⟨fun r sel => ?_, exec_beginFrame, ?_, fun s => ⟨rfl, rfl⟩, fun r sel es s s' => ?_⟩
  · have h := decodeV_begin r (FrameKind.ofBit sel)
    rwa [FrameKind.bit_ofBit] at h
  · rintro r r' sel sel' s t ⟨⟩
    rw [exec_beginFrame, exec_beginFrame, State.setRegs_setRegs]
  · obtain ⟨t, hfeed, hregs⟩ := feed_regs es (s.setRegs (startFrame sel))
    obtain ⟨t', hfeed', hregs'⟩ := feed_regs es (s'.setRegs (startFrame sel))
    have heq : t.regs = t'.regs := hregs.trans hregs'.symm
    exact ⟨t, t', (feed_ofInstr (exec_beginFrame r sel s)).trans hfeed,
      (feed_ofInstr (exec_beginFrame r sel s')).trans hfeed', heq, congrArg ports heq⟩

theorem regsAfter_of_done {es : List Event} {r : Registers} (hr : r.res ≠ .none)
    (h : ∀ e ∈ es, e.starts? = none) : regsAfter es r = r := by
  induction es with
  | nil => rfl
  | cons e es ih =>
    rw [List.forall_mem_cons] at h
    rw [regsAfter_cons, Event.onRegs_of_done h.1 hr, ih h.2]

/-- Settles O32, by induction on the events: under a verdict each of them leaves the registers as they are. -/
theorem doneIsSticky : Obligations.DoneIsSticky := by
  intro es s hr h
  obtain ⟨t, hfeed, hregs⟩ := feed_regs es s
  rw [regsAfter_of_done hr h] at hregs
  exact ⟨t, hfeed, hregs, congrArg ports hregs⟩

/-- Settles O48, by induction on the events: dropping an IDLE or a GEN leaves the registers of the run. -/
theorem idleAndGenHaveNoPart : Obligations.IdleAndGenHaveNoPart := by
  intro es s
  obtain ⟨t, hfeed, hregs⟩ := feed_regs es s
  obtain ⟨t', hfeed', hregs'⟩ := feed_regs (acting es) s
  rw [regsAfter_acting] at hregs'
  exact ⟨t, t', hfeed, hfeed', hregs.trans hregs'.symm⟩

end Sys2Proof.Machine
end

section
/-! PROOFS. The machine with an unbounded byte count (41_validator.md R97): no operation but PUSH and END reads CNT,
PUSH counts the same below 9, and END's expected counts lie below the cut-off. -/

namespace Sys2Proof.Machine

/-! ## CNT is not read by the store and the check of a byte -/

theorem frameWrite_setCnt (o : Fin 9) (b : Byte) (r : Registers) (c : BitVec 4) :
    frameWrite o b (r.setCnt c) = (frameWrite o b r).setCnt c := by
  unfold frameWrite; cases posOf o <;> rfl

theorem checkByte_setCnt (o : Fin 9) (b : Byte) (r : Registers) (c : BitVec 4) :
    checkByte o b (r.setCnt c) = (checkByte o b r).setCnt c := by
  unfold checkByte; cases posOf o <;> rfl

theorem setCnt_setCnt (r : Registers) (c d : BitVec 4) : (r.setCnt c).setCnt d = r.setCnt d := rfl

/-! ## The relation is kept -/

theorem WideRegisters.agrees_iff {w : WideRegisters} {r : Registers} :
    w.agrees r ↔ ∃ c : BitVec 4, r = w.regs.setCnt c ∧ c.toNat = min w.count 15 := by
  refine ⟨fun ⟨hregs, hcnt⟩ => ⟨r.cnt, hregs.symm, hcnt⟩, ?_⟩
  rintro ⟨c, rfl, hc⟩
  exact ⟨rfl, hc⟩

theorem WideRegisters.agrees_setCnt {w : WideRegisters} {c : BitVec 4} (hc : c.toNat = min w.count 15) :
    w.agrees (w.regs.setCnt c) :=
  agrees_iff.mpr ⟨c, rfl, hc⟩

theorem WideRegisters.push_agrees {w : WideRegisters} {c : BitVec 4} (hc : c.toNat = min w.count 15)
    (hr : w.regs.res = .none) (b : Byte) : (w.push b).agrees (pushByte b (w.regs.setCnt c)) := by
  have hdone : w.regs.done = false := done_eq_false.mpr hr
  have hnext : (nextCnt c).toNat = min (w.count + 1) 15 := by rw [nextCnt_toNat]; omega
  by_cases hlt : w.count < 9
  · have hpush : w.push b =
        ⟨checkByte ⟨w.count, hlt⟩ b (frameWrite ⟨w.count, hlt⟩ b w.regs), w.count + 1⟩ := by
      simp [WideRegisters.push, hdone, hlt]
    have hoff : (w.regs.setCnt c).cnt.toNat = (⟨w.count, hlt⟩ : Fin 9).val := by
      simp only [Registers.setCnt_cnt]; omega
    rw [hpush, pushByte_of_offset hoff, frameWrite_setCnt, checkByte_setCnt, setCnt_setCnt]
    exact agrees_setCnt hnext
  · have hpush : w.push b = ⟨w.regs, w.count + 1⟩ := by simp [WideRegisters.push, hdone, hlt]
    have hpast : 9 ≤ (w.regs.setCnt c).cnt.toNat := by simp only [Registers.setCnt_cnt]; omega
    rw [hpush, pushByte_past_nine hpast, setCnt_setCnt]
    exact agrees_setCnt hnext

theorem WideRegisters.close_agrees {w : WideRegisters} {c : BitVec 4} (hc : c.toNat = min w.count 15)
    (hr : w.regs.res = .none) : w.close.agrees (latchVerdict (w.regs.setCnt c)) := by
  have hdone : w.regs.done = false := done_eq_false.mpr hr
  have hbytes : c.toNat = w.regs.exp.bytes ↔ w.count = w.regs.exp.bytes := by
    have := bytes_le_nine w.regs.exp
    omega
  have hregs : ∀ {r : Registers}, w.close = ⟨r, w.count⟩ → w.close.agrees (r.setCnt c) := fun h =>
    h ▸ agrees_setCnt hc
  have hcases := latchVerdict_cases (w.regs.setCnt c)
  simp only [Registers.setCnt_cnt, Registers.setCnt_exp, Registers.setCnt_bad, ne_eq, hbytes] at hcases
  rcases hcases with ⟨hlen, he⟩ | ⟨k, hlen, hbad, he⟩ | ⟨hlen, hbad, he⟩ <;> rw [he]
  · exact hregs (r := raise .framing w.regs) (by simp [close, hdone, hlen])
  · exact hregs (r := raise (.checksum k) w.regs) (by simp [close, hdone, hlen, hbad])
  · exact hregs (r := accept w.regs) (by simp [close, hdone, hlen, hbad])

theorem WideRegisters.push_of_done {w : WideRegisters} (hr : w.regs.res ≠ .none) (b : Byte) : w.push b = w := by
  simp [WideRegisters.push, done_eq_true.mpr hr]

theorem WideRegisters.close_of_done {w : WideRegisters} (hr : w.regs.res ≠ .none) : w.close = w := by
  simp [close, done_eq_true.mpr hr]

theorem WideRegisters.agrees.apply {w : WideRegisters} {r : Registers} (h : w.agrees r) (i : Instr) :
    (w.apply i).agrees (execRegs i r) := by
  obtain ⟨c, rfl, hc⟩ := agrees_iff.mp h
  cases i with
  | idle _ | gen _ _ => exact h
  | beginFrame _ sel => exact ⟨rfl, rfl⟩
  | push b =>
    change (w.push b).agrees _
    by_cases hr : (w.regs.setCnt c).res = .none
    · rw [execRegs_push hr]
      exact push_agrees hc hr b
    · rwa [execRegs_push_done hr, push_of_done (w := w) hr]
  | endFrame _ =>
    change w.close.agrees _
    by_cases hr : (w.regs.setCnt c).res = .none
    · rw [execRegs_endFrame hr]
      exact close_agrees hc hr
    · rwa [execRegs_endFrame_done hr, close_of_done (w := w) hr]

theorem WideRegisters.agrees.sample {w : WideRegisters} {r : Registers} (h : w.agrees r) (e : Event) :
    (w.sample e).agrees (e.onRegs r) := by
  match e with
  | .edge true _ => exact reset_agrees
  | .edge false c => exact h.apply (decode (.v c))
  | .drive x => exact h.apply (decode (.g x))

theorem WideRegisters.agrees.runAll {w : WideRegisters} {r : Registers} (h : w.agrees r) (es : List Event) :
    (w.runAll es).agrees (regsAfter es r) := by
  induction es generalizing w r with
  | nil => exact h
  | cons e es ih => exact ih (h.sample e)

/-! ## The statements -/

/-- Settles O53: a push counts on both machines alike, cut off at 15, and at END the counts are both the expected
one or neither is. -/
theorem everyEventKeepsCounterAgreement : Obligations.EveryEventKeepsCounterAgreement := by
  intro w e rest s hs h
  obtain ⟨t, hstep, hinputs, hregs⟩ := step_event hs
  exact ⟨t, hstep, hinputs, hregs ▸ h.sample e⟩

/-- Settles O47, by induction on the pin events from reset, where the machines agree; no port shows CNT. -/
theorem unboundedCounterAgrees : Obligations.UnboundedCounterAgrees := by
  intro es
  obtain ⟨t, hfeed, hregs⟩ := feed_regs es State.reset
  have hagrees : (WideRegisters.runAll ⟨Registers.reset, 0⟩ es).agrees t.regs :=
    hregs ▸ reset_agrees.runAll es
  obtain ⟨hres, hidx, -, hports⟩ := WideRegisters.agrees_visible hagrees
  exact ⟨t, hfeed, hres, hidx, hports, hagrees.2⟩

end Sys2Proof.Machine
end

section
/-! PROOFS. The result ports (41_validator.md R76, R77, R88, R89): which registers they show, the function
`decodeFrame` word by word, and the image of its result. -/

namespace Sys2Proof.Machine

/-! ## The gates -/

theorem gated_eq {n : Nat} (r : Registers) (k : Fin 3) (x : BitVec n) :
    gated r k x = if r.res = .ok ∧ k.val < r.exp.words then x else 0#n := by
  simp only [gated, shown_eq_true]

theorem ports_wVal_get (r : Registers) (k : Fin 3) : (ports r).wVal.get k = gated r k (r.val.get k) := by
  match k with
  | 0 | 1 | 2 => rfl

theorem ports_wChk_get (r : Registers) (k : Fin 3) : (ports r).wChk.get k = gated r k (r.chk.get k) := by
  match k with
  | 0 | 1 | 2 => rfl

/-- Settles O34: `gated` shows a register under OK and below the word count only. -/
theorem resultPortsAreGated : Obligations.ResultPortsAreGated := by
  intro r n hn
  obtain rfl : n = r.exp.words := hn.trans (words_eq _).symm
  refine ⟨?_, rfl, rfl, fun k => ⟨?_, ?_⟩⟩
  · cases h : r.res <;> simp [ports, h, Verdict.code]
  · rw [ports_wVal_get, gated_eq]
  · rw [ports_wChk_get, gated_eq]

theorem ports_stRes_eq_one {r : Registers} : (ports r).stRes = 1#2 ↔ r.res = .ok := by
  simp only [ports]
  cases r.res <;> decide

theorem ports_wNum_of_ok {r : Registers} (h : r.res = .ok) : (ports r).wNum.toNat = r.exp.words := by
  simp only [ports, if_pos h]
  cases r.exp <;> rfl

/-- Settles O35: under OK no flag of a shown word is set, and a complete word's flag compares its check byte. -/
theorem shownWordsAreValid : Obligations.ShownWordsAreValid := by
  intro r hinv hres k hk
  have hok : r.res = .ok := ports_stRes_eq_one.mp hres
  rw [ports_wNum_of_ok hok] at hk
  obtain ⟨hcnt, hgood⟩ := hinv.okVerdict hok
  have hstored : 3 * k.val + 3 ≤ storedCount r := by
    have hbytes : r.exp.bytes = 3 * r.exp.words := rfl
    rw [storedCount]
    omega
  have hchk : r.chk.get k = computedCheck r k := by
    simpa [hgood k hk] using hinv.completeFlags k hstored
  rw [ports_wVal_get, ports_wChk_get, gated_eq, gated_eq, if_pos ⟨hok, hk⟩, if_pos ⟨hok, hk⟩, hchk]
  rfl

/-! ## The function on the bytes -/

theorem wordAt_valid (raw : List Byte) (k : Nat) :
    (wordAt raw k).valid = (crc8 (raw.getD (3 * k) 0#8) (raw.getD (3 * k + 1) 0#8) == raw.getD (3 * k + 2) 0#8) :=
  valid_beValue _ _ _

/-- The first word that is wrong is the one reported (R76). -/
theorem decodeFrame_of_first_wrong {raw : List Byte} {n k : Nat} (hlen : raw.length = 3 * n) (hk : k < n)
    (hbad : (wordAt raw k).valid = false) (hlow : ∀ j < k, (wordAt raw j).valid = true) :
    decodeFrame raw n = .checksum k := by
  refine decodeFrame_of_wrong_word hlen ?_
  rw [examine_map_range, List.find?_range_eq_some]
  exact ⟨by simp [hbad], List.mem_range.mpr hk, fun j hj => by simp [hlow j hj]⟩

theorem decodeFrame_of_all_valid {raw : List Byte} {n : Nat} (hlen : raw.length = 3 * n)
    (h : ∀ k < n, (wordAt raw k).valid = true) :
    decodeFrame raw n = .ok ((List.range n).map (wordAt raw)) := by
  refine decodeFrame_of_valid_words hlen ?_
  rw [examine_map_range, List.find?_range_eq_none]
  exact fun k hk => by simp [h k hk]

/-- Settles O44: the length first, then the first wrong word, else all words. -/
theorem decodeFunctionRule : Obligations.DecodeFunctionRule := by
  refine fun raw n _ => ⟨decodeFrame_of_wrong_length, fun k hlen hk hbad hlow => ?_, fun hlen h => ?_⟩
  · exact decodeFrame_of_first_wrong hlen hk (by simpa [wordAt_valid] using hbad)
      fun j hj => by simpa [wordAt_valid] using hlow j hj
  · exact decodeFrame_of_all_valid hlen fun k hk => by simpa [wordAt_valid] using h k hk

/-! ## The image of a result -/

theorem encResult_wVal_get (n : Nat) (ws : List FrameWord) (k : Fin 3) :
    (encResult n (.ok ws)).wVal.get k = (FrameWord.at ws k.val).value := by
  match k with
  | 0 | 1 | 2 => rfl

theorem encResult_wChk_get (n : Nat) (ws : List FrameWord) (k : Fin 3) :
    (encResult n (.ok ws)).wChk.get k = (FrameWord.at ws k.val).check := by
  match k with
  | 0 | 1 | 2 => rfl

/-- Settles O45: an OK image lists the words, with zeros where the list has ended. -/
theorem resultImageOnPorts : Obligations.ResultImageOnPorts := by
  refine ⟨fun _ => rfl, fun _ _ => rfl,
    fun n words hn hlen => ⟨rfl, rfl, ?_, fun k => ⟨fun w hw => ?_, fun hk => ?_⟩⟩⟩
  · rcases hn with rfl | rfl <;> rfl
  · have hat : FrameWord.at words k.val = w := by simp [FrameWord.at, List.getD, hw]
    rw [encResult_wVal_get, encResult_wChk_get, hat]
    exact ⟨rfl, rfl⟩
  · have hat : FrameWord.at words k.val = ⟨0x0000#16, 0x00#8⟩ := List.getD_eq_default _ _ (hlen ▸ hk)
    rw [encResult_wVal_get, encResult_wChk_get, hat]
    exact ⟨rfl, rfl⟩

end Sys2Proof.Machine
end

section
/-! PROOFS. Whole frame runs (41_validator.md R93 to R98): the registers while the bytes come, the result at END, and
the frames of valid words and of one corrupted byte. -/

namespace Sys2Proof.Machine

/-! ## The registers while the bytes come -/

/-- An event inside a frame run pushes one byte, or writes no register. -/
theorem inside_cases {e : Event} (h : e.inside = true) :
    (∃ b, e.instr? = some (.push b) ∧ ∀ es, pushed (e :: es) = b :: pushed es) ∨
    ((∀ r, e.onRegs r = r) ∧ ∀ es, pushed (e :: es) = pushed es) := by
  cases he : e.instr? with
  | none => simp [Event.inside, he] at h
  | some i =>
    cases i with
    | push b => exact .inl ⟨b, rfl, fun es => by simp only [pushed, he]⟩
    | idle _ | gen _ _ => exact .inr ⟨Event.onRegs_of_instr he, fun es => by simp only [pushed, he]⟩
    | beginFrame _ _ | endFrame _ => simp [Event.inside, he] at h

theorem ends_cases {e : Event} (h : e.ends = true) : ∃ d, e.instr? = some (.endFrame d) := by
  cases he : e.instr? with
  | none => simp [Event.ends, he] at h
  | some i =>
    cases i with
    | endFrame d => exact ⟨d, rfl⟩
    | idle _ | beginFrame _ _ | push _ | gen _ _ => simp [Event.ends, he] at h

theorem regsAfter_inside {es : List Event} (h : ∀ e ∈ es, e.inside = true) {r : Registers} (hr : r.res = .none) :
    regsAfter es r = pushBytes (pushed es) r := by
  induction es generalizing r with
  | nil => rfl
  | cons e es ih =>
    obtain ⟨he, hes⟩ := List.forall_mem_cons.mp h
    rw [regsAfter_cons]
    rcases inside_cases he with ⟨b, hi, hp⟩ | ⟨hkeep, hp⟩
    · rw [Event.onRegs_of_instr hi, execRegs_push hr, hp, pushBytes_cons]
      exact ih hes (by rwa [pushByte_res])
    · rw [hkeep, hp]
      exact ih hes hr

theorem regsAfter_frame {first : Event} {body : List Event} {sel : FrameKind} (hfirst : first.starts? = some sel)
    (hbody : ∀ e ∈ body, e.inside = true) (r : Registers) :
    regsAfter (first :: body) r = pushBytes (pushed body) (startFrame sel) := by
  rw [regsAfter_cons, Event.onRegs_of_starts hfirst]
  exact regsAfter_inside hbody rfl

/-- Settles O43: the registers are those of a fresh frame with the bytes pushed. -/
theorem frameRunProgress : Obligations.FrameRunProgress := by
  intro first body sel s hfirst hbody
  obtain ⟨t, hfeed, hregs⟩ := feed_regs (first :: body) s
  rw [regsAfter_frame hfirst hbody] at hregs
  refine ⟨t, hfeed, ?_, ?_, ?_, fun o => ?_, fun k hk => ?_⟩ <;> rw [hregs]
  · exact pushBytes_res _ _
  · exact pushBytes_exp _ _
  · rw [pushBytes_cnt_toNat]
    exact congrArg (min · 15) (Nat.zero_add _)
  · exact frameCell_pushBytes_startFrame sel _ o
  · rw [bad_get_pushBytes sel hk, wordAt_valid, BEq.comm, bne]

/-! ## The result at END -/

/-- Settles O46: END latches the verdict on the registers that the pushes left, which `decodeFrame` gives. -/
theorem frameRunComputesDecode : Obligations.FrameRunComputesDecode := by
  intro first last body rest sel s hfirst hbody hlast hs
  have hsplit : s.inputs = (first :: body ++ [last]) ++ rest := by rw [hs, List.append_assoc]; rfl
  obtain ⟨t, hrun, hinputs, hregs⟩ := run_events hsplit
  obtain ⟨d, hd⟩ := ends_cases hlast
  have hverdict : t.regs = latchVerdict (pushBytes (pushed body) (startFrame sel)) := by
    rw [hregs, regsAfter_append, regsAfter_frame hfirst hbody, regsAfter_cons, regsAfter_nil,
      Event.onRegs_of_instr hd, execRegs_endFrame (pushBytes_res _ _)]
  have hports : ports t.regs = encResult sel.words (decodeFrame (pushed body) sel.words) := by
    rw [hverdict, ports_latchVerdict_pushBytes]
  have hlen : (first :: body ++ [last]).length = body.length + 2 := by simp
  exact ⟨t, hlen ▸ hrun, hinputs, hports, congrArg Ports.stRes hports, congrArg Ports.stIdx hports⟩

/-! ## Frames of valid words -/

/-- The three bytes of a word on the wire (20_memory.md R31): `groups` reads them back (`groups_flatMap_bytes`). -/
def FrameWord.bytes (w : FrameWord) : List Byte := [hiByte w.value, loByte w.value, w.check]

theorem length_flatMap_bytes (ws : List FrameWord) : (ws.flatMap FrameWord.bytes).length = 3 * ws.length := by
  induction ws with
  | nil => rfl
  | cons w ws ih =>
    have hbytes : w.bytes.length = 3 := rfl
    rw [List.flatMap_cons, List.length_append, ih, hbytes, List.length_cons]
    omega

theorem groups_flatMap_bytes (ws : List FrameWord) : groups (ws.flatMap FrameWord.bytes) = ws := by
  induction ws with
  | nil => rfl
  | cons w ws ih =>
    calc groups ((w :: ws).flatMap FrameWord.bytes)
      _ = ⟨beValue (hiByte w.value) (loByte w.value), w.check⟩ :: groups (ws.flatMap FrameWord.bytes) := rfl
      _ = w :: ws := by rw [beValue_hiByte_loByte, ih]

theorem examine_eq_none {ws : List FrameWord} (h : ∀ w ∈ ws, w.valid = true) (k : Nat) : examine k ws = none := by
  induction ws generalizing k with
  | nil => rfl
  | cons w ws ih =>
    obtain ⟨hw, hws⟩ := List.forall_mem_cons.mp h
    rw [examine_cons, if_pos hw]
    exact ih hws (k + 1)

/-- Valid words are decoded to themselves, in order (R98). -/
theorem decodeFrame_flatMap_bytes {ws : List FrameWord} (h : ∀ w ∈ ws, w.valid = true) :
    decodeFrame (ws.flatMap FrameWord.bytes) ws.length = .ok ws := by
  simp only [decodeFrame, length_flatMap_bytes, groups_flatMap_bytes, examine_eq_none h, ne_eq, not_true_eq_false,
    if_false]

theorem feed_frame_of_valid_words {kind : FrameKind} {ws : List FrameWord} (hlen : ws.length = kind.words)
    (h : ∀ w ∈ ws, w.valid = true) (s : State) :
    ∃ t, feed ((pseudoFrame kind (ws.flatMap FrameWord.bytes)).map Event.ofInstr) s = .next t ∧
      ports t.regs = encResult kind.words (.ok ws) := by
  rw [← decodeFrame_flatMap_bytes h, hlen]
  exact feed_pseudoFrame_ports kind _ s

/-- Settles O49: the pushed bytes are those of the words, which `decodeFrame` gives back. -/
theorem validFrameRoundTrip : Obligations.ValidFrameRoundTrip := by
  have hvalid : ∀ {v : Value} {c : Byte}, crc8 (hiByte v) (loByte v) = c → (FrameWord.mk v c).valid = true :=
    fun h => beq_iff_eq.mpr h
  refine ⟨fun v0 v1 v2 c0 c1 c2 s h0 h1 h2 => ?_, fun v0 c0 s h0 => ?_⟩
  · exact feed_frame_of_valid_words (kind := .measurement) (ws := [⟨v0, c0⟩, ⟨v1, c1⟩, ⟨v2, c2⟩]) rfl
      (by simp [hvalid h0, hvalid h1, hvalid h2]) s
  · exact feed_frame_of_valid_words (kind := .status) (ws := [⟨v0, c0⟩]) rfl (by simp [hvalid h0]) s

/-! ## One corrupted byte -/

theorem getD_set_self {raw : List Byte} {o : Nat} (h : o < raw.length) (b : Byte) : (raw.set o b).getD o 0#8 = b := by
  simp [h]

theorem getD_set_other (raw : List Byte) {o j : Nat} (h : o ≠ j) (b : Byte) :
    (raw.set o b).getD j 0#8 = raw.getD j 0#8 := by
  simp [h]

theorem wordAt_set_other (raw : List Byte) {o k : Nat} (h : o / 3 ≠ k) (b : Byte) :
    wordAt (raw.set o b) k = wordAt raw k := by
  rw [wordAt, getD_set_other, getD_set_other, getD_set_other, wordAt] <;> omega

/-- A byte replaced in a valid word makes it wrong: `crc8` is one to one in either data byte (40_crc8.md R71). -/
theorem wordAt_set_invalid {raw : List Byte} {o : Nat} {b : Byte} (ho : o < raw.length)
    (hvalid : (wordAt raw (o / 3)).valid = true) (hb : b ≠ raw.getD o 0#8) :
    (wordAt (raw.set o b) (o / 3)).valid = false := by
  rw [wordAt_valid, beq_iff_eq] at hvalid
  rw [wordAt_valid, beq_eq_false_iff_ne]
  generalize hk : o / 3 = k at *
  obtain rfl | rfl | rfl : o = 3 * k ∨ o = 3 * k + 1 ∨ o = 3 * k + 2 := by omega
  · rw [getD_set_self ho, getD_set_other _ (by omega), getD_set_other _ (by omega), ← hvalid]
    exact mt crc8_inj_high.mp hb
  · rw [getD_set_self ho, getD_set_other _ (by omega), getD_set_other _ (by omega), ← hvalid]
    exact mt crc8_inj_low.mp hb
  · rw [getD_set_self ho, getD_set_other _ (by omega), getD_set_other _ (by omega), hvalid]
    exact hb.symm

/-- Settles O50: the replaced byte makes its own word wrong and no other, so that word is the first wrong one. -/
theorem corruptedByteNamesItsWord : Obligations.CorruptedByteNamesItsWord := by
  intro raw o b s hlen hcheck ho hb
  have hvalid : ∀ k < 3, (wordAt raw k).valid = true := fun k hk => by
    rw [wordAt_valid, beq_iff_eq]
    exact hcheck k hk
  have hdecode : decodeFrame (raw.set o b) 3 = .checksum (o / 3) := by
    refine decodeFrame_of_first_wrong (by rw [List.length_set, hlen]) (by omega)
      (wordAt_set_invalid (by omega) (hvalid _ (by omega)) hb) fun j hj => ?_
    rw [wordAt_set_other raw (by omega)]
    exact hvalid j (by omega)
  obtain ⟨t, hfeed, hports⟩ := feed_pseudoFrame_ports .measurement (raw.set o b) s
  exact ⟨t, hfeed, hports.trans (congrArg (encResult 3) hdecode)⟩

end Sys2Proof.Machine
end

section
/-! PROOFS. The two exceptions (60_exceptions.md R100 to R108): exactly when END latches each of them, what raising
one writes and shows, and what leaves it. -/

namespace Sys2Proof.Machine

/-! ## Raising -/

theorem Exc.code_ne_ok (e : Exc) : e.code ≠ .ok := by
  cases e <;> nofun

theorem ports_raise (e : Exc) (r : Registers) :
    ports (raise e r) = ⟨e.code.code, e.index, 0#2, ⟨0#16, 0#16, 0#16⟩, ⟨0#8, 0#8, 0#8⟩⟩ :=
  ports_of_not_ok (r := raise e r) e.code_ne_ok

theorem raise_done (e : Exc) (r : Registers) : (raise e r).done = true := by
  cases e <;> rfl

/-- Settles O30: `raise` writes the exception's code and index, and no code is NONE or OK. -/
theorem raisingWritesOnlyResAndIdx : Obligations.RaisingWritesOnlyResAndIdx := fun r =>
  ⟨raise_eq .framing r, fun k => raise_eq (.checksum k) r, ports_raise .framing r,
    fun k => ports_raise (.checksum k) r, fun e => ⟨raise_done e r, frameCell_congr rfl rfl⟩⟩

/-- Settles O36: the codes of CHECKSUM and FRAMING, 2 and 3, are the two with bit 1 set. -/
theorem errorLineIsUpperBitOfRes : Obligations.ErrorLineIsUpperBitOfRes := by
  intro r
  change r.res.code.getLsbD 1 = true ↔ _
  cases r.res <;> decide

/-! ## When END raises -/

theorem latchVerdict_framing_iff {r : Registers} :
    (latchVerdict r).res = .framing ↔ r.cnt.toNat ≠ r.exp.bytes := by
  rcases latchVerdict_cases r with ⟨hc, h⟩ | ⟨k, hc, -, h⟩ | ⟨hc, -, h⟩ <;>
    simp [h, hc, raise_eq, accept_eq, Exc.code]

theorem latchVerdict_idx_of_framing {r : Registers} (h : (latchVerdict r).res = .framing) :
    (latchVerdict r).idx = 0#2 := by
  rw [latchVerdict_of_wrong_count (latchVerdict_framing_iff.mp h)]
  rfl

theorem latchVerdict_checksum_iff {r : Registers} {k : Fin 3} :
    ((latchVerdict r).res = .checksum ∧ (latchVerdict r).idx.toNat = k.val) ↔
      r.cnt.toNat = r.exp.bytes ∧ firstBad r.exp r.bad = some k := by
  rcases latchVerdict_cases r with ⟨hc, h⟩ | ⟨j, hc, hj, h⟩ | ⟨hc, hnone, h⟩
  · simp [h, hc, raise_eq, Exc.code]
  · have hidx : (raise (.checksum j) r).idx.toNat = j.val := index_checksum_toNat j
    rw [h, hidx]
    simp [hc, hj, raise_eq, Exc.code, Fin.ext_iff]
  · simp [h, hnone, accept_eq]

/-- Settles O28: END compares the count before it reads a flag. -/
theorem framingBeforeChecksum : Obligations.FramingBeforeChecksum := fun _ _ _ hr hc =>
  ⟨_, exec_endFrame_eq hr (latchVerdict_of_wrong_count hc), rfl, rfl⟩

/-- Settles O29: the word is the first whose flag END finds set, and under CHECKSUM the ports show its index
alone. -/
theorem lowestWrongWordIsReported : Obligations.LowestWrongWordIsReported := by
  intro d s k hr hc hk hbad hlow
  have hfirst : firstBad s.regs.exp s.regs.bad = some k := firstBad_eq_some.mpr ⟨hk, hbad, hlow⟩
  exact ⟨_, exec_endFrame_eq hr (latchVerdict_of_firstBad hc hfirst), rfl, index_checksum_toNat k,
    ports_raise (.checksum k) s.regs⟩

/-! ## No other operation raises, and only a fresh frame leaves a verdict -/

/-- While a frame is collected every operation but END leaves RES at NONE. -/
theorem exec_res_eq_none {i : Instr} {s t : State} (h : exec i s = .next t) (hi : ¬ ∃ d, i = .endFrame d)
    (hr : s.regs.res = .none) : t.regs.res = .none := by
  rw [exec_regs h]
  cases i with
  | idle _ | gen _ _ => exact hr
  | beginFrame _ _ => rfl
  | push b => rw [execRegs_push hr, pushByte_res, hr]
  | endFrame d => exact absurd ⟨d, rfl⟩ hi

/-- Settles O31: END latches by its two conditions, and after any other operation RES is still NONE. -/
theorem onlyEndRaises : Obligations.OnlyEndRaises := by
  intro i s t ht hr
  by_cases hi : ∃ d, i = .endFrame d
  · have hregs : t.regs = latchVerdict s.regs := by
      obtain ⟨d, rfl⟩ := hi
      rw [exec_regs ht, execRegs_endFrame hr]
    rw [hregs]
    refine ⟨?_, fun k => ?_, latchVerdict_idx_of_framing⟩
    · exact latchVerdict_framing_iff.trans (and_iff_right hi).symm
    · rw [latchVerdict_checksum_iff, firstBad_eq_some]
      exact (and_iff_right hi).symm
  · have hnone : t.regs.res = .none := exec_res_eq_none ht hi hr
    simp [hnone, hi]

/-- Settles O33: under a verdict an event that starts no frame leaves the registers as they are. -/
theorem onlyBeginOrResetLeavesDone : Obligations.OnlyBeginOrResetLeavesDone := by
  intro s t hr ht hne
  cases hs : s.inputs with
  | nil =>
    rw [step_nil hs] at ht
    cases ht
    exact absurd rfl hne
  | cons e rest =>
    rw [step_cons hs] at ht
    have hregs : t.regs = e.onRegs s.regs := sampleEvent_regs (s := s.setInputs rest) ht
    cases hk : e.starts? with
    | none => exact absurd (hregs.trans (Event.onRegs_of_done hk hr)) hne
    | some k => exact ⟨e, rest, k, rfl, hk, hregs.trans (Event.onRegs_of_starts hk s.regs)⟩

end Sys2Proof.Machine
end

section
/-! PROOFS. The reset step (70_reset_and_hazards.md R120, R121): what it writes, and that BEGIN M does the same. -/

namespace Sys2Proof.Machine

/-- A step that begins a frame run takes its event off the list and starts a frame, from every state. -/
theorem step_starts {e : Event} {k : FrameKind} {rest : List Event} {s : State} (hs : s.inputs = e :: rest)
    (hk : e.starts? = some k) : step s = .next ((s.setInputs rest).setRegs (startFrame k)) :=
  (step_cons hs).trans (sampleEvent_starts hk _)

theorem starts?_reset (w : CmdWord) : (Event.edge true w).starts? = some .measurement := rfl

/-- R49's canonical word of `BEGIN M`. -/
theorem starts?_beginMeasurement : (Event.edge false 0x101#10).starts? = some .measurement := rfl

/-- Settles O17: a reset step starts a measurement frame, whose registers are those of reset, and under the verdict
NONE every word port is zero. -/
theorem resetStepFromEveryState : Obligations.ResetStepFromEveryState := by
  intro w rest s hs
  have hregs : startFrame .measurement = State.reset.regs := startFrame_eq .measurement
  have hres : (startFrame .measurement).res ≠ .ok := nofun
  exact ⟨_, step_starts hs (starts?_reset w), hregs.trans resetRegisterValues, ports_of_not_ok hres, rfl, rfl, rfl⟩

/-- Settles O18: both steps start a measurement frame, so they answer one state. -/
theorem resetEqualsBeginMeasurement : Obligations.ResetEqualsBeginMeasurement := by
  refine fun w rest s => ⟨?_, exec_beginFrame 0#7 .measurement s, rfl⟩
  rw [step_starts (State.setInputs_inputs s _) (starts?_reset w),
    step_starts (State.setInputs_inputs s _) starts?_beginMeasurement,
    State.setInputs_setInputs, State.setInputs_setInputs]

end Sys2Proof.Machine
end
